-- ==== Sys2Proof/Word.lean ====
section
/-!
DEFINITION. The word types of the ZP440 model: bytes on the bus, the two 32-bit clocks and the web positions.
Only what the manual adds, subtracts or compares modulo a power of two is a bit vector; every other number is a Nat.
-/
namespace Sys2Proof

/-- One byte of a frame or of the configuration image (10 section 10.1). -/
abbrev Byte := BitVec 8

/-- A node time in ms or a pulse time in microseconds: both are free-running 32-bit counts (00_scope, Time). -/
abbrev Ticks := BitVec 32

/-- A web position: the integer part of a web accumulator, modulo 2^48 micrometres (00_scope, Web positions). -/
abbrev WebPos := BitVec 48

/-- A web accumulator W: 48 integer bits and 16 fraction bits (06 R105). -/
abbrev WebAcc := BitVec 64

/-- The integer part of a web accumulator (06 R105, R106). -/
abbrev WebAcc.whole (w : WebAcc) : WebPos := (w >>> 16).setWidth 48

end Sys2Proof
end

