-- ==== Sys2Proof/Syntax.lean ====
section
/-!
DEFINITION. The commands of the ZP440: one constructor per row of spec/opcode_table.json, in the table's order.
The table gives its rows no operands and no bits; an operand here is what the line, the module, the timer or the
operator of the row names (log 4 of notes/assumptions says how a command comes to the node).
-/
namespace Sys2Proof

/-- The two arms of a reelstand (00_scope, Identities). -/
inductive Arm where
  | a | b
deriving DecidableEq, Repr

/-- The other arm of the same stand. -/
def Arm.other : Arm → Arm
  | .a => .b
  | .b => .a

/-- What one input point of a field module shows in one answer (11 R187): nothing new, a level (a sensor or a pressed
button), a new tag read with the cart's mode and load flag, or a stop reader's gone report. -/
inductive PointInput where
  | nothing
  | level (on : Bool)
  | tag (cart : Nat) (manual loaded : Bool)
  | gone (cart : Nat)
deriving DecidableEq, Repr

/-- The two pulsed outputs of a stand (07 R136, R137). -/
inductive PulsedOutput where
  | paster | knife
deriving DecidableEq, Repr

/-- The commands. -/
inductive Instr where
  -- node states (11 R183 to R186)
  | coldReset
  | resetEnd
  | imageRead (memory : Option (List Byte))
  | surveyEnd
  -- the bus port (10 R174 to R176)
  | frameReceived (line : List Byte)
  | attemptStart
  | arbitrationLost
  | attemptSucceeded
  | attemptFailed
  | silentEntry
  | silentEnd
  -- the frame at the head of the receive queue (10 R178)
  | call
  | offer
  | take
  | close
  | gone
  | shipComing
  | shipReady
  | accept
  | refuse
  | landed
  | rollNotice
  | edition
  | amend
  | editionEnd
  | divert
  | requestTally
  | requestStatus
  -- the waits of the supply unit (03)
  | offerWindowExpiry (stand : Nat)
  | shipWaitExpiry (stand : Nat)
  | retryExpiry (stand : Nat)
  | callerLandingExpiry (link : Nat)
  | holdExpiry (caller callNo : Nat)
  | comingRepeat (link : Nat)
  | acceptWaitExpiry (link : Nat)
  | conveyorClearExpiry (link : Nat)
  | giverLandingExpiry (link : Nat)
  -- the field link (11 R187, R188)
  | fieldAnswer (modNo : Nat) (inputs : List PointInput)
  | missedScan (modNo : Nat)
  | moduleLost (modNo : Nat)
  -- track and carts (04)
  | occupancyChange (sec : Nat) (present : Bool)
  | sectionTagRead (sec cart : Nat) (manual loaded : Bool)
  | stopTagRead (stop cart : Nat) (manual loaded : Bool)
  | stopTagGone (stop cart : Nat)
  | startWaitExpiry (cart : Nat)
  | transitExpiry (cart : Nat)
  | transferTimeout (cart : Nat)
  | rollSensorChange (stop : Nat) (present : Bool)
  -- stand inputs and the buttons of the PREP stops (07, 02)
  | readyConfirm (stand : Nat) (arm : Arm)
  | spliceNow (stand : Nat)
  | armLoadedChange (stand : Nat) (arm : Arm) (present : Bool)
  | webPresentChange (stand : Nat) (present : Bool)
  | prepConfirm (stop : Nat)
  | prepReject (stop : Nat)
  -- web measurement and the splice (06, 07)
  | webPulse (stand : Nat)
  | knife (stand : Nat)
  | verifyPassed (stand : Nat)
  | revolutionPulse (stand : Nat) (arm : Arm)
  | standbyPulse (stand : Nat) (arm : Arm)
  | enterMatched (stand : Nat)
  | paste (stand : Nat)
  | outputPulseEnd (stand : Nat) (output : PulsedOutput)
  -- copies and the press (08, 09)
  | copyPulse
  | trimWindowEnd (stand : Nat)
  | pressRunRise
  | pressRunFall
  | speedWindow
  | pulseLost (stand : Nat)
  | decelStopped (stand : Nat)
  | buttStopped (stand : Nat) (arm : Arm)
deriving DecidableEq, Repr

end Sys2Proof
end

