-- ==== Sys2Proof/Config.lean ====
section
/-!
DEFINITION. What one installation fixes: the configuration image (10 section 10.6), the fixed waits of the manual, and
the values the manual leaves open (opaque constants with no body).
-/
namespace Sys2Proof

/-- The kinds of stop (04 R64); `unknown` stands for a kind code outside 1-8, which the RANGE check refuses (11 R183). -/
inductive StopKind where
  | slot | prep | stand | out | inn | dock | scrap | park | unknown
deriving DecidableEq, Repr

/-- One entry of the grade table (01 R14). -/
structure GradeCfg where
  caliper : Nat
  ds : Nat
  minReturn : Nat
  tension : Nat
  lane : Nat
deriving DecidableEq, Repr

/-- One stand record of the image (10 section 10.6). -/
structure StandCfg where
  num : Nat
  standStop : Nat
  prepStop : Nat
  modNo : Nat
  callLead : Nat
  accelLead : Nat
  settleRevs : Nat
  minSpeed : Nat
  runOutMargin : Nat
  pathLen : Nat
  knifeOffset : Nat
  theta : Nat
  actuatorDelay : Nat
  pre : Nat
  post : Nat
  verifyLen : Nat
  k0 : Nat
  rpmMax : Nat
  torqueMax : Nat
  trimLen : Nat
  pulseWidth : Nat
deriving DecidableEq, Repr

/-- One section record of the image. -/
structure SectionCfg where
  modNo : Nat
  occPoint : Nat
  tagPoint : Nat
  drivePoint : Nat
deriving DecidableEq, Repr

/-- One stop record of the image; `extra` is the lane, stand, link or cart the kind asks for. -/
structure StopCfg where
  num : Nat
  kind : StopKind
  sec : Nat
  modNo : Nat
  firstPoint : Nat
  extra : Nat
deriving DecidableEq, Repr

/-- One cart record of the image. -/
structure CartCfg where
  num : Nat
  parkStop : Nat
deriving DecidableEq, Repr

/-- One link record of the image; links are numbered by position. -/
structure LinkCfg where
  neighbour : Nat
  outStop : Nat
  inStop : Nat
  convModule : Nat
  convPoint : Nat
deriving DecidableEq, Repr

/-- One field module record of the image; modules are numbered by position. -/
structure ModuleCfg where
  address : Nat
  points : Nat
deriving DecidableEq, Repr

/-- The configuration image as the blocks fill their tables from it (11 R183). -/
structure Image where
  cls : Nat
  node : Nat
  core : Nat
  grades : List GradeCfg
  stands : List StandCfg
  sections : List SectionCfg
  stops : List StopCfg
  carts : List CartCfg
  links : List LinkCfg
  modules : List ModuleCfg
deriving DecidableEq, Repr

/-- No image: before LOADING the tables hold no entries (R14, R22, R63, R72). -/
def Image.empty : Image :=
  { cls := 0, node := 0, core := 0, grades := [], stands := [], sections := [], stops := [], carts := [],
    links := [], modules := [] }

/-- A LINE node (10 section 10.5, node class 1). -/
def Image.isLine (i : Image) : Bool := i.cls == 1

namespace Config

/-! ### Fixed waits, in ms of node time -/
def offerWindow : Ticks := 400#32          -- R41
def shipWait : Ticks := 5000#32            -- R43, R44
def retryWait : Ticks := 30000#32          -- R43, R45, R46, R49
def landingWait : Ticks := 60000#32        -- R45, R59
def holdWait : Ticks := 3000#32            -- R54
def comingPeriod : Ticks := 2000#32        -- R55
def acceptWait : Ticks := 2000#32          -- R59
def clearWait : Ticks := 30000#32          -- R59
def startWait : Ticks := 3000#32           -- R75
def transitWait : Ticks := 20000#32        -- R78
def transferWait : Ticks := 30000#32       -- R82
def speedWindow : Ticks := 250#32          -- R107
def surveyWait : Ticks := 4000#32          -- R185
def silentWait : Ticks := 1000#32          -- R175
/-- 4 s in microseconds: an arm that has given no pulse for longer is seen stopped (R141, R146). -/
def stoppedAfter : Nat := 4000000

/-! ### Table sizes and limits -/
def rollRecords : Nat := 64                -- R1
def taskCap : Nat := 16                    -- R88
def rxCap : Nat := 16                      -- R176
def txCap : Nat := 12                      -- R177
def holdCap : Nat := 8                     -- R54
def markCap : Nat := 4                     -- R161
def failureCap : Nat := 8                  -- R175
def missedCap : Nat := 3                   -- R188
def suspendCap : Nat := 3                  -- R98
def max32 : Nat := 4294967295
def max16 : Nat := 65535
/-- T_s when there is no forecast (R118). -/
def noForecast : Nat := 65535
/-- pi times 100,000, as the part uses it (00_scope). -/
def pi5 : Nat := 314159
/-- The model's bound on the scheduler's rounds inside one event (DESIGN CHOICE, log 7). -/
def settleRounds : Nat := 32

/-! ### Values the manual leaves open: opaque, no body -/

/-- The quotient where the manual's formula divides by zero: the surface speed of two standby pulses with one
time stamp (R134) and the drive duty with no diameter (R128). Free value, log 8. -/
opaque quotientByZero : Nat → Nat

/-- The brake duty of a RUN arm for which the tension formula has no D, by the duty it held before (R127, R129).
Free value, log 9. -/
opaque dutyWithoutDiameter : Nat → Nat

/-- The image offset CONFIG_FAULT carries where a check fails on no single field, by the check (R183).
Free value, log 10. -/
opaque faultOffset : Nat → Nat

/-- How a D_meas that does not fit two bytes is carried (R181). Free value, log 11. -/
opaque wideMeasurement : Nat → Nat

end Config
end Sys2Proof
end

