-- ==== Sys2Proof/Machine/Arith.lean ====
section
/-!
DEFINITION. The arithmetic of the part (00_scope, Numbers and arithmetic): clocks and web positions compared modulo
their width, saturating counts, the integer square root, byte order, the frame check and ring distances.
-/
namespace Sys2Proof.Machine

/-! ### Modular comparisons (00_scope, Web positions; Time) -/

/-- A time has been reached when the present time less it, modulo 2^32, is below 2^31. -/
def reached (now t : Ticks) : Bool := (now - t).toNat < 2 ^ 31

/-- An absent time is never reached. -/
def reached? (now : Ticks) : Option Ticks → Bool
  | none => false
  | some t => reached now t

/-- The time that has passed since `t`, modulo 2^32. -/
def elapsed (now t : Ticks) : Nat := (now - t).toNat

/-- More than `span` has passed since the stamped time `t`, judged as an expiry is (00_scope, Time). -/
def longerThan (span : Nat) (now t : Ticks) : Bool := reached now (t + BitVec.ofNat 32 (span + 1))

/-- W has passed X when W - X, modulo 2^48, is below 2^47. -/
def passed (w x : WebPos) : Bool := (w - x).toNat < 2 ^ 47

/-- A length in mm as a web length in micrometres. -/
def mm (n : Nat) : WebPos := BitVec.ofNat 48 (n * 1000)

/-! ### Counts -/

/-- A counter that stays at its largest value. -/
def satAdd (cap n k : Nat) : Nat := min cap (n + k)

/-- A sequence number that passes from its largest value back to 0. -/
def wrapSucc (largest n : Nat) : Nat := if n ≥ largest then 0 else n + 1

def clampTo (lo hi x : Nat) : Nat := max lo (min hi x)

/-- The manual's divisions; where the divisor is 0 the manual states no quotient and it is a free value (log 8). -/
def quotient (a b : Nat) : Nat := if b = 0 then Config.quotientByZero a else a / b

/-- One binary digit of the square root: `r` holds the digits found above bit `k`. -/
def isqrtBits (n : Nat) : Nat → Nat → Nat
  | 0, r => r
  | k + 1, r =>
    let r' := r + 2 ^ k
    if r' * r' ≤ n then isqrtBits n k r' else isqrtBits n k r

/-- The largest integer whose square does not exceed `n` (00_scope). -/
def isqrt (n : Nat) : Nat := isqrtBits n (Nat.log2 n / 2 + 1) 0

/-! ### Bytes: most significant byte first (10 section 10.1) -/

def bytesOf : Nat → Nat → List Byte
  | 0, _ => []
  | k + 1, n => BitVec.ofNat 8 (n / 256 ^ k) :: bytesOf k n

def natOf (bs : List Byte) : Nat := bs.foldl (fun acc b => acc * 256 + b.toNat) 0

/-- The number in `width` bytes at offset `off`; bytes that are not there are not read. -/
def fieldAt (bs : List Byte) (off width : Nat) : Nat := natOf ((bs.drop off).take width)

/-! ### The frame check: x^16 + x^12 + x^5 + 1, started from 65,535 (10 section 10.1) -/

def crcBit (c : BitVec 16) : BitVec 16 := if c.msb then (c <<< 1) ^^^ 0x1021#16 else c <<< 1

def crcByte (c : BitVec 16) (b : Byte) : BitVec 16 :=
  let c := c ^^^ ((b.setWidth 16) <<< 8)
  crcBit (crcBit (crcBit (crcBit (crcBit (crcBit (crcBit (crcBit c)))))))

def frameCheck (bs : List Byte) : Nat := (bs.foldl crcByte 0xFFFF#16).toNat

/-! ### The ring (04 R63) -/

/-- The section after `i` on a ring of `n`; section 1 follows section `n`. -/
def ringNext (n i : Nat) : Nat := if i ≥ n then 1 else i + 1

/-- Sections passed from `a` to `b` in ring direction, 0 when they are the same (R53, R93). -/
def ringDist (n a b : Nat) : Nat := (b + n - a) % n

/-! ### Age (R2): a present dock sequence is older than an absent one, a smaller one older than a larger -/

/-- A number that grows as the roll gets younger. -/
def youth : Option Nat → Nat
  | some d => d
  | none => Config.max32 + 1

/-! ### Lists kept as tables -/

/-- Change the entries that `p` picks. -/
def updateIf {α : Type} (p : α → Bool) (f : α → α) (l : List α) : List α := l.map fun x => if p x then f x else x

/-- The entry with the smallest key, the first of them in list order. -/
def argMin {α : Type} (key : α → List Nat) : List α → Option α
  | [] => none
  | x :: xs =>
    match argMin key xs with
    | none => some x
    | some y => if key y < key x then some y else some x

/-- Stable insertion by a key, smaller first. -/
def insertBy {α : Type} (key : α → List Nat) (x : α) : List α → List α
  | [] => [x]
  | y :: ys => if key y < key x then y :: insertBy key x ys else x :: y :: ys

/-- Stable sort by a key, smaller first: equal keys keep their order. -/
def sortBy {α : Type} (key : α → List Nat) (l : List α) : List α := l.foldr (insertBy key) []

/-- Do `f` for each member in turn. -/
def forEach {α σ : Type} (l : List α) (f : σ → α → σ) (s : σ) : σ := l.foldl f s

/-- Repeat a round until it reports that nothing was left to do, at most `fuel` times. -/
def rounds {σ : Type} (f : σ → Option σ) : Nat → σ → σ
  | 0, s => s
  | k + 1, s =>
    match f s with
    | none => s
    | some s' => rounds f k s'

/-- The numbers 1 to `n`. -/
def oneTo (n : Nat) : List Nat := (List.range n).map (· + 1)

end Sys2Proof.Machine
end

