-- ==== Sys2Proof/Machine/State.lean ====
section
/-!
DEFINITION. The state of a ZP440, all of it plain data: one structure per block of 00_scope, each with its value after
a cold reset. INVENTORY.md lists every field with the rule that names it.
`Plant` is the reel-room side (bus port, roll table, supply, traffic, tasks, stands, field link, loader);
`Press` is the web, edition and waste side; `pending` is the queue of commands waiting.
-/
namespace Sys2Proof.Machine

/-! ### Clock and loader -/

/-- The two free-running clocks (00_scope, Time) and the microseconds counted since the last whole millisecond. -/
structure Clock where
  ms : Ticks
  us : Ticks
  sub : Nat
deriving DecidableEq, Repr

/-- Node states, in the manual's order (R184). -/
inductive NodeState where
  | reset | loading | halted | survey | run
deriving DecidableEq, Repr

/-- The configuration loader (R183 to R186). -/
structure Loader where
  node : NodeState
  surveyStart : Ticks
  image : Image
deriving DecidableEq, Repr

/-! ### Bus port -/

inductive LinkState where
  | active | silent
deriving DecidableEq, Repr

/-- A frame of the reel bus less its length and check, which follow from the rest (10 section 10.1). -/
structure Frame where
  kind : Nat
  dest : Nat
  src : Nat
  payload : List Byte
deriving DecidableEq, Repr

/-- An entry of the transmit queue; `flying` marks the frame whose attempt has begun (R174). -/
structure TxEntry where
  frame : Frame
  flying : Bool
deriving DecidableEq, Repr

/-- The bus port (R174 to R182). `rx` and `tx` are kept in order of arrival. -/
structure BusPort where
  number : Option Nat
  link : LinkState
  silentEnd : Option Ticks
  rx : List Frame
  tx : List TxEntry
  failures : Nat
  eventNo : Nat
  overrun : Nat
  txDrop : Nat
  checkErr : Nat
  ignored : Nat
  silentEntries : Nat
  ackDriven : Bool
deriving DecidableEq, Repr

/-! ### Roll table -/

/-- A handle: record index and generation (R1). -/
structure Handle where
  idx : Nat
  gen : Nat
deriving DecidableEq, Repr

/-- Record states, in the manual's order (R3). -/
inductive RollState where
  | expected | placed | carried | mounted | ready | run | butt | shipped
deriving DecidableEq, Repr

/-- Where a record's roll is (R3). -/
inductive Loc where
  | stop (n : Nat)
  | cart (n : Nat)
  | arm (stand : Nat) (m : Arm)
  | link (n : Nat)
deriving DecidableEq, Repr

/-- A record's reservation (R8). -/
inductive Claim where
  | none
  | stand (s : Nat)
  | hold (caller callNo : Nat)
  | ship (link : Nat)
deriving DecidableEq, Repr

/-- One roll record (R2, R3, R8, R10, R11, R12). -/
structure Roll where
  num : Option Nat
  grade : Option Nat
  width : Option Nat
  core : Nat
  diam : Option Nat
  dock : Option Nat
  state : RollState
  loc : Loc
  claim : Claim
  prepared : Bool
  part : Bool
  rejected : Bool
  unknown : Bool
  runMetres : Nat
  runResidue : Nat
  copies : Nat
  waste : Nat
deriving DecidableEq, Repr

/-- One index of the roll table: its generation and the record in use there, if any (R1). -/
structure RollSlot where
  gen : Nat
  roll : Option Roll
deriving DecidableEq, Repr

/-- What an arm, a mark or a folder roll names: a record, a roll with no record, or nothing (R123, R161, R162). -/
inductive RollRef where
  | none
  | unrecorded
  | record (h : Handle)
deriving DecidableEq, Repr

/-! ### Supply unit -/

inductive CallState where
  | opened | chosen | inbound | failed
deriving DecidableEq, Repr

/-- The best offer of a call (R40). -/
structure Offer where
  node : Nat
  roll : Nat
  cost : Nat
  dock : Option Nat
deriving DecidableEq, Repr

/-- One call record (R40). -/
structure Call where
  num : Nat
  stand : Nat
  grade : Nat
  width : Nat
  minLen : Nat
  state : CallState
  best : Option Offer
  offerers : List Nat
  expiry : Ticks
  link : Option Nat
deriving DecidableEq, Repr

/-- One hold; HELD while it has an expiry, TAKEN once that is removed (R54, R55). -/
structure Hold where
  roll : Handle
  caller : Nat
  callNo : Nat
  link : Nat
  expiry : Option Ticks
deriving DecidableEq, Repr

inductive OutState where
  | idle | carrying | asking | conveying | inTransit
deriving DecidableEq, Repr

/-- The outbound shipment record of a link (R39). -/
structure Outbound where
  state : OutState
  roll : Option Handle
  caller : Nat
  callNo : Nat
  coming : Option Ticks
  accept : Option Ticks
  clear : Option Ticks
  landing : Option Ticks
deriving DecidableEq, Repr

/-- The inbound shipment record of a link: EXPECTING while it has a handle, else IDLE (R39). -/
structure Inbound where
  expecting : Bool
  roll : Option Handle
  giver : Nat
  callNo : Nat
  landing : Option Ticks
  claimed : Bool
deriving DecidableEq, Repr

/-- The two shipment records of one link. -/
structure LinkRec where
  num : Nat
  out : Outbound
  inb : Inbound
deriving DecidableEq, Repr

structure Supply where
  calls : List Call
  nextCall : Nat
  holds : List Hold
  links : List LinkRec
deriving DecidableEq, Repr

/-! ### Traffic controller -/

inductive DriveLevel where
  | stop | creep | run
deriving DecidableEq, Repr

inductive SectionState where
  | free
  | reserved (cart : Nat)
  | occupied (cart : Nat)
  | blocked
deriving DecidableEq, Repr

/-- A section record (R63, R66); sensor, module and stops are found through the image and the module record. -/
structure Section where
  num : Nat
  state : SectionState
  level : DriveLevel
deriving DecidableEq, Repr

/-- A stop's point: RING, or SPUR set for one cart that starts there or is to turn in there (R65). -/
inductive Point where
  | ring
  | depart (cart : Nat)
  | arrive (cart : Nat)
deriving DecidableEq, Repr

inductive TransferDir where
  | toCart | toStop
deriving DecidableEq, Repr

/-- The six task kinds, in the manual's order (R89). -/
inductive TaskKind where
  | feedPrep | feedMount | unload | ship | stow | reject
deriving DecidableEq, Repr

/-- A stop record (R64); `pending` is the stop's pending item (R38, R62, R100). -/
structure Stop where
  num : Nat
  roll : Option Handle
  expected : Option Handle
  cart : Option Nat
  claim : Option Nat
  point : Point
  transfer : Option TransferDir
  warning : Bool
  pending : Option TaskKind
deriving DecidableEq, Repr

inductive CartState where
  | parked | idle | starting | running | held | transfer | fault | manual
deriving DecidableEq, Repr

inductive Pos where
  | sec (n : Nat)
  | stop (n : Nat)
deriving DecidableEq, Repr

/-- A leg: a destination stop and the task it serves, if any (R74). -/
structure Leg where
  stop : Nat
  task : Option Nat
deriving DecidableEq, Repr

/-- Causes of a cart's FAULT, in the order of event code 15 (10 R181). -/
inductive FaultCause where
  | transit | transfer | unexpected | module | notFound
deriving DecidableEq, Repr

/-- The latest reading of a tag reader during SURVEY, kept with the cart it read (R87, R185). -/
structure TagRead where
  pos : Pos
  manual : Bool
  loaded : Bool
deriving DecidableEq, Repr

/-- A cart record (R72). `queued` holds the queued leg of R81 or the kept leg of R77; `arm` the arm named by the transfer
in progress, or interrupted where the cart stands (R79, R85); `noRecord` marks a cart loaded with a roll the full table has no record for (R85);
`startsFrom` holds the stop whose start warning the running start wait has turned on (R75), and `surveyReads` the tag readers whose
latest reading in SURVEY was this cart, the newest first (R185). -/
structure Cart where
  num : Nat
  state : CartState
  pos : Option Pos
  load : Option Handle
  loadFlag : Bool
  leg : Option Leg
  queued : Option Leg
  held : List Nat
  task : Option Nat
  startWait : Option Ticks
  startsFrom : Option Nat
  transit : Option Ticks
  transfer : Option Ticks
  arm : Option Arm
  lastFault : Option FaultCause
  pending : Option TaskKind
  noRecord : Bool
  surveyReads : List TagRead
deriving DecidableEq, Repr

structure Traffic where
  sections : List Section
  stops : List Stop
  carts : List Cart
deriving DecidableEq, Repr

/-! ### Task scheduler -/

inductive TaskState where
  | waiting | assigned | loading | carrying | unloading
deriving DecidableEq, Repr

/-- Where a task fetches its roll: a stop, an arm at its stand's STAND stop, or a cart that already holds it (R88). -/
inductive Source where
  | stop (n : Nat)
  | arm (stand : Nat) (m : Arm)
  | cart (n : Nat)
deriving DecidableEq, Repr

/-- A task record (R88). `waitsFor` is set while a refused leg waits for a change of the from stop's claim or module
state, and holds what they were (R94). The queue is kept in order of creation; queue order is computed (R91). -/
structure Task where
  num : Nat
  kind : TaskKind
  cls : Nat
  roll : Handle
  src : Source
  dest : Option Nat
  arm : Option Arm
  stand : Option Nat
  link : Option Nat
  urgency : Nat
  cart : Option Nat
  suspensions : Nat
  created : Ticks
  noSlot : Bool
  state : TaskState
  waitsFor : Option (Option Nat × Bool)
deriving DecidableEq, Repr

structure Scheduler where
  queue : List Task
  next : Nat
  fullSent : Bool
deriving DecidableEq, Repr

/-! ### Stands and arms -/

inductive EstMode where
  | none | seeding | measuring | coast
deriving DecidableEq, Repr

/-- The diameter estimator of an arm (R110). `coastFrom` is the web position a PULSE_LOST taken before its speed window's
expiry has already coasted to (R115, R116, log 32). -/
structure Estimator where
  mode : EstMode
  dFilt : Option Nat
  sq : Option Nat
  rejects : Nat
  suspect : Bool
  lastCap : Option WebPos
  lastTime : Ticks
  coastFrom : Option WebPos
deriving DecidableEq, Repr

inductive ArmState where
  | empty | mounted | ready | spin | run | butt
deriving DecidableEq, Repr

/-- An arm record with its estimator (R110, R123) and its survey pulse count (R185). -/
structure ArmRec where
  state : ArmState
  roll : RollRef
  brake : Nat
  drive : Nat
  lastPulse : Option Ticks
  stopped : Bool
  est : Estimator
  surveyPulses : Nat
deriving DecidableEq, Repr

/-- Splice phases, in the order of event code 26 (10 R181). -/
inductive Phase where
  | none | accel | matched | armed | pasted | verify | decel
deriving DecidableEq, Repr

/-- Answers of the store controller to a roll request (R30, R34). -/
inductive Answer where
  | selected | called | unmatched | deferred
deriving DecidableEq, Repr

/-- A stand record (R122) with its two arms, the figures of its last speed window (R108, R130), its pulsed outputs
(R136, R137), the STAND_UNIDENTIFIED mark (R30), the scheduler's pending UNLOAD for it (R100), and the old roll of a splice
in VERIFY, which its SPLICE_DONE names (R139). A stand is RUNNING exactly while it has a run arm. -/
structure Stand where
  num : Nat
  runArm : Option Arm
  phase : Phase
  matchedCount : Nat
  fireTime : Option Ticks
  spliceNow : Bool
  pastePos : Option WebPos
  verifyStart : Option WebPos
  oldRoll : RollRef
  broken : Bool
  runOut : Bool
  requested : Bool
  lastAnswer : Option Answer
  timeToSplice : Nat
  remaining : Option Nat
  pasterEnd : Option Ticks
  knifeEnd : Option Ticks
  unidentSent : Bool
  pendingUnload : Option Arm
  armA : ArmRec
  armB : ArmRec
deriving DecidableEq, Repr

structure Splice where
  stands : List Stand
  pressStop : Bool
deriving DecidableEq, Repr

/-! ### Field link -/

/-- A field module's record (R187, R188): the last reading of each point, first point first. -/
structure ModuleRec where
  num : Nat
  missed : Nat
  lost : Bool
  answered : Bool
  inputs : List PointInput
deriving DecidableEq, Repr

/-! ### Web measurement -/

/-- The web record of a stand (R105) with its trim window; the window is COUNTING while it has a start (R119). -/
structure WebStand where
  num : Nat
  w : WebAcc
  k : Nat
  wLast : WebPos
  v : Nat
  trimStart : Option WebPos
  trimCount : Nat
deriving DecidableEq, Repr

structure WebUnit where
  windowEnd : Ticks
  stands : List WebStand
deriving DecidableEq, Repr

/-! ### Edition counter -/

inductive EditionState where
  | none | loaded | running | complete
deriving DecidableEq, Repr

inductive VersionState where
  | pending | running | complete
deriving DecidableEq, Repr

structure Version where
  id : Nat
  ordered : Nat
  good : Nat
  state : VersionState
deriving DecidableEq, Repr

/-- The seven edition counters (R148). -/
structure Counters where
  gross : Nat
  good : Nat
  start : Nat
  splice : Nat
  brk : Nat
  manual : Nat
  overrun : Nat
deriving DecidableEq, Repr

/-- The edition record, the unplanned counter and the tally number (R148, R171). -/
structure EditionCounter where
  state : EditionState
  id : Option Nat
  cutOff : Nat
  startWaste : Nat
  stands : List Nat
  versions : List Version
  cur : Option Nat
  counts : Counters
  finalSent : Bool
  unplanned : Nat
  tallyNo : Nat
deriving DecidableEq, Repr

/-! ### Waste unit -/

/-- A splice mark (R162). -/
structure Mark where
  pos : WebPos
  old : RollRef
  new : RollRef
  reached : Bool
deriving DecidableEq, Repr

structure WasteStand where
  num : Nat
  marks : List Mark
  folder : RollRef
deriving DecidableEq, Repr

structure WasteUnit where
  stands : List WasteStand
  start : Nat
  manual : Nat
  latch : Bool
  unattributed : Nat
  gate : Bool
deriving DecidableEq, Repr

/-! ### The whole node -/

/-- `polled` is the module whose poll is next, or is waiting for its answer (R187). -/
structure Plant where
  clock : Clock
  pressRun : Bool
  loader : Loader
  bus : BusPort
  rolls : List RollSlot
  supply : Supply
  traffic : Traffic
  sched : Scheduler
  splice : Splice
  modules : List ModuleRec
  polled : Nat
deriving DecidableEq, Repr

structure Press where
  web : WebUnit
  edition : EditionCounter
  waste : WasteUnit
deriving DecidableEq, Repr

structure State where
  plant : Plant
  press : Press
  pending : List Instr
deriving DecidableEq, Repr

/-- No rule of the manual stops the part, so nobody raises a fault. The one constructor is there so that the type is
inhabited by name; answering it would be safe (the model would stop where the part goes on). -/
inductive Fault where
  | never
deriving DecidableEq, Repr

/-- No command is refused by the model. `notModelled` would be answered by an arm of `exec` that has no meaning yet
(safe); no arm answers it. -/
inductive Refusal where
  | notModelled (mnemonic : String)
deriving DecidableEq, Repr

/-! ### Values after a cold reset -/

def Clock.zero : Clock := { ms := 0, us := 0, sub := 0 }

/-- R179, R182. -/
def BusPort.reset : BusPort :=
  { number := none, link := .active, silentEnd := none, rx := [], tx := [], failures := 0, eventNo := 0, overrun := 0,
    txDrop := 0, checkErr := 0, ignored := 0, silentEntries := 0, ackDriven := false }

/-- R22: all 64 records free, every generation 0. -/
def rollsReset : List RollSlot := List.replicate Config.rollRecords { gen := 0, roll := none }

/-- R39, R40, R54. -/
def Supply.reset : Supply := { calls := [], nextCall := 0, holds := [], links := [] }

/-- R63, R64, R72: no entries. -/
def Traffic.reset : Traffic := { sections := [], stops := [], carts := [] }

/-- R88. -/
def Scheduler.reset : Scheduler := { queue := [], next := 1, fullSent := false }

/-- R110. -/
def Estimator.reset : Estimator :=
  { mode := .none, dFilt := none, sq := none, rejects := 0, suspect := false, lastCap := none, lastTime := 0,
    coastFrom := none }

/-- R123. -/
def ArmRec.reset : ArmRec :=
  { state := .empty, roll := .none, brake := 0, drive := 0, lastPulse := none, stopped := false,
    est := Estimator.reset, surveyPulses := 0 }

/-- R122. -/
def Stand.reset (n : Nat) : Stand :=
  { num := n, runArm := none, phase := .none, matchedCount := 0, fireTime := none, spliceNow := false,
    pastePos := none, verifyStart := none, oldRoll := .none, broken := false, runOut := false, requested := false, lastAnswer := none,
    timeToSplice := Config.noForecast, remaining := none, pasterEnd := none, knifeEnd := none, unidentSent := false,
    pendingUnload := none, armA := ArmRec.reset, armB := ArmRec.reset }

/-- R129, R147: the press stop request is asserted. -/
def Splice.reset : Splice := { stands := [], pressStop := true }

/-- R39: IDLE, with no handle. The caller node and call number of an IDLE record are not given: 0, and no wait (DESIGN CHOICE,
log 57). -/
def Outbound.idle : Outbound :=
  { state := .idle, roll := none, caller := 0, callNo := 0, coming := none, accept := none, clear := none,
    landing := none }

/-- R39: IDLE, with no handle. The giver node and call number of an IDLE record are not given: 0, with no wait and the claimed
mark clear (DESIGN CHOICE, log 57). -/
def Inbound.idle : Inbound :=
  { expecting := false, roll := none, giver := 0, callNo := 0, landing := none, claimed := false }

/-- R105. -/
def WebUnit.reset : WebUnit := { windowEnd := 0, stands := [] }

def Counters.zero : Counters := { gross := 0, good := 0, start := 0, splice := 0, brk := 0, manual := 0, overrun := 0 }

/-- R148: NONE, with no plan and counters 0. What the cut-off and the start waste of a record with no plan hold is not given: 0
(DESIGN CHOICE, log 74). -/
def EditionCounter.reset : EditionCounter :=
  { state := .none, id := none, cutOff := 0, startWaste := 0, stands := [], versions := [], cur := none,
    counts := Counters.zero, finalSent := false, unplanned := 0, tallyNo := 0 }

/-- R161. -/
def WasteUnit.reset : WasteUnit :=
  { stands := [], start := 0, manual := 0, latch := false, unattributed := 0, gate := false }

/-- R184: RESET, with every block at its reset values. -/
def Plant.reset : Plant :=
  { clock := Clock.zero, pressRun := false,
    loader := { node := .reset, surveyStart := 0, image := Image.empty },
    bus := BusPort.reset, rolls := rollsReset, supply := Supply.reset, traffic := Traffic.reset,
    sched := Scheduler.reset, splice := Splice.reset, modules := [], polled := 1 }

def Press.reset : Press := { web := WebUnit.reset, edition := EditionCounter.reset, waste := WasteUnit.reset }

/-- The node right after a cold reset, with no command waiting. -/
def State.reset : State := { plant := Plant.reset, press := Press.reset, pending := [] }

end Sys2Proof.Machine
end

