-- ==== Sys2Proof/Machine/Flags.lean ====
section
/-!
DEFINITION. The one-byte codes, flag bytes and field encodings of the reel bus (10 section 10.5, Field encodings; event
parameters of R181). Where the manual gives no coding, 0 is the first value it lists, and on in that order.
-/
namespace Sys2Proof.Machine

def u8 (n : Nat) : List Byte := bytesOf 1 n
def u16 (n : Nat) : List Byte := bytesOf 2 n
def u24 (n : Nat) : List Byte := bytesOf 3 n
def u32 (n : Nat) : List Byte := bytesOf 4 n
/-- A roll number: 5 bytes, 0 for absent or unknown. -/
def u40 (n : Nat) : List Byte := bytesOf 5 n
/-- A web position: 6 bytes. -/
def u48 (w : WebPos) : List Byte := bytesOf 6 w.toNat

/-- Set or clear, present or absent, high or low. -/
def bit (b : Bool) : List Byte := u8 b.toNat

/-- A number that holds none is sent as 0. -/
def numOr0 (o : Option Nat) : Nat := o.getD 0

def armCode : Arm → Nat
  | .a => 1
  | .b => 2

def armOr0 : Option Arm → Nat
  | none => 0
  | some m => armCode m

def NodeState.code : NodeState → Nat
  | .reset => 0
  | .loading => 1
  | .halted => 2
  | .survey => 3
  | .run => 4

def LinkState.code : LinkState → Nat
  | .active => 0
  | .silent => 1

def CallState.code : CallState → Nat
  | .opened => 0
  | .chosen => 1
  | .inbound => 2
  | .failed => 3

def OutState.code : OutState → Nat
  | .idle => 0
  | .carrying => 1
  | .asking => 2
  | .conveying => 3
  | .inTransit => 4

def SectionState.code : SectionState → Nat
  | .free => 0
  | .reserved _ => 1
  | .occupied _ => 2
  | .blocked => 3

/-- The cart that holds a section, if any. -/
def SectionState.holder : SectionState → Option Nat
  | .free => none
  | .reserved c => some c
  | .occupied c => some c
  | .blocked => none

def stopKindCode : StopKind → Nat
  | .slot => 1
  | .prep => 2
  | .stand => 3
  | .out => 4
  | .inn => 5
  | .dock => 6
  | .scrap => 7
  | .park => 8
  | .unknown => 0

def TaskKind.code : TaskKind → Nat
  | .feedPrep => 1
  | .feedMount => 2
  | .unload => 3
  | .ship => 4
  | .stow => 5
  | .reject => 6

def kindOr0 : Option TaskKind → Nat
  | none => 0
  | some k => k.code

def TaskState.code : TaskState → Nat
  | .waiting => 0
  | .assigned => 1
  | .loading => 2
  | .carrying => 3
  | .unloading => 4

def CartState.code : CartState → Nat
  | .parked => 0
  | .idle => 1
  | .starting => 2
  | .running => 3
  | .held => 4
  | .transfer => 5
  | .fault => 6
  | .manual => 7

def FaultCause.code : FaultCause → Nat
  | .transit => 1
  | .transfer => 2
  | .unexpected => 3
  | .module => 4
  | .notFound => 5

def Phase.code : Phase → Nat
  | .none => 0
  | .accel => 1
  | .matched => 2
  | .armed => 3
  | .pasted => 4
  | .verify => 5
  | .decel => 6

def ArmState.code : ArmState → Nat
  | .empty => 0
  | .mounted => 1
  | .ready => 2
  | .spin => 3
  | .run => 4
  | .butt => 5

def Answer.code : Answer → Nat
  | .selected => 0
  | .called => 1
  | .unmatched => 2
  | .deferred => 3

def EditionState.code : EditionState → Nat
  | .none => 0
  | .loaded => 1
  | .running => 2
  | .complete => 3

def VersionState.code : VersionState → Nat
  | .pending => 0
  | .running => 1
  | .complete => 2

def Point.code : Point → Nat
  | .ring => 0
  | .depart _ => 1
  | .arrive _ => 1

/-- Position: 0 absent, 1 section, 2 stop, then the number. -/
def posBytes : Option Pos → List Byte
  | none => u8 0 ++ u8 0
  | some (.sec n) => u8 1 ++ u8 n
  | some (.stop n) => u8 2 ++ u8 n

/-- A place as frames name it; `raw` is a pair of bytes that names neither a stop nor an arm. -/
inductive Place where
  | stop (n : Nat)
  | arm (stand : Nat) (m : Arm)
  | raw (first second : Nat)
deriving DecidableEq, Repr

def Place.bytes : Place → List Byte
  | .stop n => u8 0 ++ u8 n
  | .arm s m => u8 s ++ u8 (armCode m)
  | .raw x y => u8 x ++ u8 y

/-- The flags byte of a stand: break, run-out and request raised, in the order of R122. -/
def standFlags (s : Stand) : Nat := s.broken.toNat + 2 * s.runOut.toNat + 4 * s.requested.toNat

/-- Stands in use as one byte: add 1, 2, 4, 8 for stands 1 to 4. -/
def standsByte (l : List Nat) : Nat :=
  (if l.contains 1 then 1 else 0) + (if l.contains 2 then 2 else 0) + (if l.contains 3 then 4 else 0) +
    (if l.contains 4 then 8 else 0)

/-- The stands a stands-in-use byte names. -/
def standsOfByte (b : Nat) : List Nat := (oneTo 4).filter fun n => (b / 2 ^ (n - 1)) % 2 == 1

/-! ### Reason and cause codes (R181) -/
namespace Reason
def badNumber : Nat := 1
def placeTaken : Nat := 2
def notReceiving : Nat := 3
def noPlace : Nat := 4
def elsewhere : Nat := 5
def inBusy : Nat := 1
def mismatch : Nat := 2
def tableFull : Nat := 3
def duplicate : Nat := 4
def noCall : Nat := 5
def noLink : Nat := 6
def noAnswer : Nat := 7
def callRefused : Nat := 1
def callGone : Nat := 2
def callNoShip : Nat := 3
def occupancy : Nat := 1
def unexpectedCart : Nat := 2
def module : Nat := 3
def taskCartManual : Nat := 1
def taskNotReady : Nat := 2
def taskRollGone : Nat := 3
def trimHigh : Nat := 1
def trimLow : Nat := 2
def trimNoPulses : Nat := 3
def abortSpeed : Nat := 1
def abortPressOff : Nat := 2
def abortWebBreak : Nat := 3
def abortPasterTiming : Nat := 4
def abortRunArmLost : Nat := 5
def abortRollRemoved : Nat := 6
def active : Nat := 1
def badPlan : Nat := 2
def badStand : Nat := 3
def tooManyVersions : Nat := 4
def duplicateVersion : Nat := 5
def notLoaded : Nat := 6
def noEdition : Nat := 1
def noVersion : Nat := 2
def badCount : Nat := 3
def passedVersion : Nat := 4
def inputConfirm : Nat := 1
def inputReject : Nat := 2
/-- CONFIG_FAULT reasons (R183). -/
def read : Nat := 1
def check : Nat := 2
def format : Nat := 3
def count : Nat := 4
def range : Nat := 5
def reference : Nat := 6
end Reason

/-! ### Frame kind codes (10 section 10.5) -/
namespace Kind
def call : Nat := 16
def offer : Nat := 17
def take : Nat := 18
def close : Nat := 19
def gone : Nat := 20
def ship : Nat := 21
def accept : Nat := 22
def refuse : Nat := 23
def landed : Nat := 24
def edition : Nat := 32
def amend : Nat := 33
def editionEnd : Nat := 34
def divert : Nat := 35
def request : Nat := 36
def rollNotice : Nat := 37
def event : Nat := 48
def rollReport : Nat := 64
def tally : Nat := 65
def status : Nat := 66
end Kind

/-- Transmit classes: 0 SUPPLY, 1 EVENT, 2 REPORT; a larger number is a lower class (R177). -/
def Frame.cls (f : Frame) : Nat := if f.kind < 48 then 0 else if f.kind == Kind.event then 1 else 2

/-- Kinds that some block of a node takes (R176). -/
def Frame.takenKind (f : Frame) : Bool := (16 ≤ f.kind && f.kind ≤ 24) || (32 ≤ f.kind && f.kind ≤ 37)

end Sys2Proof.Machine
end

