-- ==== Sys2Proof/Machine/Messages.lean ====
section
/-!
DEFINITION. The frames the node sends (10 section 10.5) and the events (R181): what each carries, and its bytes.
-/
namespace Sys2Proof.Machine

/-- A roll snapshot: the descriptive fields of a record (10 section 10.5; R19). The roll number 0 stands for none. -/
structure Snapshot where
  num : Nat
  grade : Option Nat
  width : Option Nat
  core : Option Nat
  diam : Option Nat
  dock : Option Nat
  part : Bool
deriving DecidableEq, Repr

def Snapshot.presence (s : Snapshot) : Nat :=
  s.grade.isSome.toNat + 2 * s.width.isSome.toNat + 4 * s.core.isSome.toNat + 8 * s.diam.isSome.toNat +
    16 * s.dock.isSome.toNat + 32 * s.part.toNat

/-- 17 bytes. -/
def Snapshot.bytes (s : Snapshot) : List Byte :=
  u40 s.num ++ u8 s.presence ++ u8 (numOr0 s.grade) ++ u16 (numOr0 s.width) ++ u16 (numOr0 s.core) ++
    u16 (numOr0 s.diam) ++ u32 (numOr0 s.dock)

/-- The snapshot of a record; a record's core diameter is always present (R2). -/
def Roll.snapshot (r : Roll) : Snapshot :=
  { num := numOr0 r.num, grade := r.grade, width := r.width, core := some r.core, diam := r.diam, dock := r.dock,
    part := r.part }

/-- The events, in the order of their codes 1 to 34 (R181). -/
inductive Event where
  | nodeStarted (cls : Nat)
  | configFault (reason offset : Nat)
  | tableFull (roll : Nat) (place : Place)
  | rollConflict (roll : Nat) (place : Place) (reason : Nat)
  | rollLost (roll : Nat) (place : Place)
  | standUnidentified (stand : Nat)
  | storageFull
  | prepRefused (stop input : Nat)
  | callUnmet (stand grade width minLen : Nat)
  | callFailed (stand cause reason : Nat)
  | transferUnconfirmed (link callNo roll : Nat)
  | shipRefused (link callNo roll reason : Nat)
  | conveyorFault (link roll : Nat)
  | sectionBlocked (sec cause : Nat)
  | cartFault (cart : Nat) (cause : FaultCause) (pos : Option Pos)
  | cartManual (cart : Nat) (pos : Option Pos)
  | cartAuto (cart : Nat) (pos : Option Pos)
  | taskQueueFull (kind : TaskKind)
  | taskFailed (task : Nat) (kind : TaskKind) (roll cause : Nat)
  | diameterSuspect (stand : Nat) (arm : Arm) (dFilt dMeas : Nat)
  | pulseLost (stand : Nat) (arm : Arm) (dFilt : Nat)
  | trimLimit (stand k cause : Nat)
  | spliceDone (stand : Nat) (arm : Option Arm) (old new : Nat)
  | spliceFailed (stand : Nat) (arm : Option Arm)
  | spliceAborted (stand cause : Nat)
  | spliceRefused (stand : Nat) (phase : Phase)
  | webBreak (stand : Nat) (arm : Option Arm)
  | runOut (stand : Nat) (arm : Arm) (dFilt : Nat)
  | editionRefused (kind id reason : Nat)
  | amendRefused (id version reason : Nat)
  | versionDone (id version ordered good : Nat)
  | editionDone (id : Nat)
  | markForced (stand : Nat) (pos : WebPos) (old new : Nat)
  | divertRefused (n : Nat)
deriving DecidableEq, Repr

/-- A diameter measurement in two bytes; how a larger one is carried is not stated (log 11). -/
def measurementBytes (d : Nat) : List Byte :=
  if d ≤ Config.max16 then u16 d else u16 (Config.wideMeasurement d)

/-- The event code and its parameters in the order of the table (R181). -/
def Event.body : Event → Nat × List Byte
  | .nodeStarted c => (1, u8 c)
  | .configFault r o => (2, u8 r ++ u16 o)
  | .tableFull n p => (3, u40 n ++ p.bytes)
  | .rollConflict n p r => (4, u40 n ++ p.bytes ++ u8 r)
  | .rollLost n p => (5, u40 n ++ p.bytes)
  | .standUnidentified s => (6, u8 s)
  | .storageFull => (7, [])
  | .prepRefused x i => (8, u8 x ++ u8 i)
  | .callUnmet s g w m => (9, u8 s ++ u8 g ++ u16 w ++ u32 m)
  | .callFailed s c r => (10, u8 s ++ u8 c ++ u8 r)
  | .transferUnconfirmed l c n => (11, u8 l ++ u8 c ++ u40 n)
  | .shipRefused l c n r => (12, u8 l ++ u8 c ++ u40 n ++ u8 r)
  | .conveyorFault l n => (13, u8 l ++ u40 n)
  | .sectionBlocked s c => (14, u8 s ++ u8 c)
  | .cartFault c f p => (15, u8 c ++ u8 f.code ++ posBytes p)
  | .cartManual c p => (16, u8 c ++ posBytes p)
  | .cartAuto c p => (17, u8 c ++ posBytes p)
  | .taskQueueFull k => (18, u8 k.code)
  | .taskFailed t k n c => (19, u8 t ++ u8 k.code ++ u40 n ++ u8 c)
  | .diameterSuspect s m d x => (20, u8 s ++ u8 (armCode m) ++ u16 d ++ measurementBytes x)
  | .pulseLost s m d => (21, u8 s ++ u8 (armCode m) ++ u16 d)
  | .trimLimit s k c => (22, u8 s ++ u32 k ++ u8 c)
  | .spliceDone s m o n => (23, u8 s ++ u8 (armOr0 m) ++ u40 o ++ u40 n)
  | .spliceFailed s m => (24, u8 s ++ u8 (armOr0 m))
  | .spliceAborted s c => (25, u8 s ++ u8 c)
  | .spliceRefused s p => (26, u8 s ++ u8 p.code)
  | .webBreak s m => (27, u8 s ++ u8 (armOr0 m))
  | .runOut s m d => (28, u8 s ++ u8 (armCode m) ++ u16 d)
  | .editionRefused k i r => (29, u8 k ++ u16 i ++ u8 r)
  | .amendRefused i v r => (30, u16 i ++ u8 v ++ u8 r)
  | .versionDone i v o g => (31, u16 i ++ u8 v ++ u32 o ++ u32 g)
  | .editionDone i => (32, u16 i)
  | .markForced s p o n => (33, u8 s ++ u48 p ++ u40 o ++ u40 n)
  | .divertRefused n => (34, u16 n)

/-- Causes of a TALLY (R158), coded as 10 section 10.5 codes them. -/
inductive TallyCause where
  | versionDone | editionDone | ended | request
deriving DecidableEq, Repr

def TallyCause.code : TallyCause → Nat
  | .versionDone => 1
  | .editionDone => 2
  | .ended => 3
  | .request => 4

/-- The body of one part of a TALLY (R171). -/
inductive TallyPart where
  | head (cause : TallyCause) (id : Nat) (state : EditionState) (cur : Nat) (cutOff startWaste stands : Nat)
  | counts (c : Counters)
  | version (pos : Nat) (v : Version)
  | node (unplanned unattributed start manual : Nat)
deriving DecidableEq, Repr

def TallyPart.body : TallyPart → Nat × List Byte
  | .head c i s k co sw st => (1, u8 c.code ++ u16 i ++ u8 s.code ++ u8 k ++ u16 co ++ u16 sw ++ u8 st)
  | .counts c =>
    (2, u32 c.gross ++ u32 c.good ++ u32 c.start ++ u32 c.splice ++ u32 c.brk ++ u32 c.manual ++ u32 c.overrun)
  | .version p v => (3, u8 p ++ u8 v.id ++ u32 v.ordered ++ u32 v.good ++ u8 v.state.code)
  | .node u a s m => (4, u32 u ++ u32 a ++ u16 s ++ u16 m)

/-- What the node sends, by frame kind. -/
inductive Msg where
  | call (callNo grade width minLen : Nat)
  | offer (callNo roll cost : Nat) (dock : Option Nat)
  | take (callNo roll : Nat)
  | close (callNo : Nat)
  | gone (callNo roll : Nat)
  | shipComing (callNo roll : Nat)
  | shipReady (callNo : Nat) (snap : Snapshot)
  | accept (callNo roll : Nat)
  | refuse (callNo roll reason : Nat)
  | landed (callNo roll : Nat)
  | event (number : Nat) (e : Event)
  | rollReport (stand : Nat) (arm : Arm) (snap : Snapshot) (run copies waste : Nat)
  | tally (number index count : Nat) (part : TallyPart)
  | status (sec item : Nat) (contents : Option (List Byte))
deriving DecidableEq, Repr

def Msg.kind : Msg → Nat
  | .call .. => Kind.call
  | .offer .. => Kind.offer
  | .take .. => Kind.take
  | .close .. => Kind.close
  | .gone .. => Kind.gone
  | .shipComing .. => Kind.ship
  | .shipReady .. => Kind.ship
  | .accept .. => Kind.accept
  | .refuse .. => Kind.refuse
  | .landed .. => Kind.landed
  | .event .. => Kind.event
  | .rollReport .. => Kind.rollReport
  | .tally .. => Kind.tally
  | .status .. => Kind.status

def Msg.payload : Msg → List Byte
  | .call c g w m => u8 c ++ u8 g ++ u16 w ++ u32 m
  | .offer c n k d => u8 c ++ u40 n ++ u8 k ++ bit d.isSome ++ u32 (numOr0 d)
  | .take c n => u8 c ++ u40 n
  | .close c => u8 c
  | .gone c n => u8 c ++ u40 n
  | .shipComing c n => u8 c ++ u8 1 ++ u40 n
  | .shipReady c s => u8 c ++ u8 2 ++ s.bytes
  | .accept c n => u8 c ++ u40 n
  | .refuse c n r => u8 c ++ u40 n ++ u8 r
  | .landed c n => u8 c ++ u40 n
  | .event n e => u8 e.body.1 ++ u8 n ++ e.body.2
  | .rollReport s m r l c w => u8 s ++ u8 (armCode m) ++ r.bytes ++ u32 l ++ u32 c ++ u32 w
  | .tally t i n p => u8 t ++ u8 i ++ u8 n ++ u8 p.body.1 ++ p.body.2
  | .status s i none => u8 s ++ u8 i ++ bit false
  | .status s i (some c) => u8 s ++ u8 i ++ bit true ++ c

end Sys2Proof.Machine
end

