-- ==== Sys2Proof/Machine/Operands.lean ====
section
/-!
DEFINITION. Reading the frames the node takes (10 section 10.5): the fields of each payload, the length check of R178
and the frame on the line (10 section 10.1, R176).
-/
namespace Sys2Proof.Machine

/-- A number of `width` bytes at payload offset `off`. -/
def Frame.num (f : Frame) (off width : Nat) : Nat := fieldAt f.payload off width

/-- The call number, first byte of every supply frame. -/
def Frame.callNo (f : Frame) : Nat := f.num 0 1

/-- The roll number of OFFER, TAKE, GONE, ACCEPT, REFUSE and LANDED. -/
def Frame.rollNo (f : Frame) : Nat := f.num 1 5

def optIf (b : Bool) (n : Nat) : Option Nat := if b then some n else none

/-- The dock sequence of an OFFER, or the mark that it has none: its present byte 0. Any other value than 0 and 1 is taken as
present (DESIGN CHOICE, log 43). -/
def Frame.offerDock (f : Frame) : Option Nat := optIf (f.num 7 1 != 0) (f.num 8 4)

/-- A roll snapshot of 17 bytes; a field whose presence is not given is absent, whatever its bytes hold. -/
def snapshotOf (bs : List Byte) : Snapshot :=
  let p := fieldAt bs 5 1
  { num := fieldAt bs 0 5
    grade := optIf (p % 2 == 1) (fieldAt bs 6 1)
    width := optIf (p / 2 % 2 == 1) (fieldAt bs 7 2)
    core := optIf (p / 4 % 2 == 1) (fieldAt bs 9 2)
    diam := optIf (p / 8 % 2 == 1) (fieldAt bs 11 2)
    dock := optIf (p / 16 % 2 == 1) (fieldAt bs 13 4)
    part := p / 32 % 2 == 1 }

def within (lo hi : Nat) (o : Option Nat) : Option Nat := o.filter fun n => lo ≤ n && n ≤ hi

/-- A field whose value lies outside its range in R2 is treated as absent (R15; for a SHIP, DEDUCED, log 21). The roll number is
not among these fields: one above 999,999,999,999, of which the spec says nothing for a SHIP, is kept as the number (DESIGN
CHOICE, log 21). -/
def Snapshot.ranged (s : Snapshot) : Snapshot :=
  { s with
    grade := within 0 15 s.grade
    width := within 300 2200 s.width
    core := within 700 1600 s.core
    diam := within 700 16000 s.diam }

/-- The place a notice names (10 section 10.5). A stand 1 to 4 with an arm byte other than 1 and 2 is no place (DESIGN CHOICE,
log 40). -/
def placeOf (first second : Nat) : Place :=
  if first = 0 then .stop second
  else if 1 ≤ first ∧ first ≤ 4 ∧ second = 1 then .arm first .a
  else if 1 ≤ first ∧ first ≤ 4 ∧ second = 2 then .arm first .b
  else .raw first second

def Frame.noticePlace (f : Frame) : Place := placeOf (f.num 0 1) (f.num 1 1)
def Frame.noticeSnapshot (f : Frame) : Snapshot := snapshotOf (f.payload.drop 2)
def Frame.shipStage (f : Frame) : Nat := f.num 1 1
def Frame.shipSnapshot (f : Frame) : Snapshot := snapshotOf (f.payload.drop 2)

/-- The plan an EDITION frame carries (10 section 10.5). -/
structure Plan where
  id : Nat
  cutOff : Nat
  startWaste : Nat
  standsByte : Nat
  count : Nat
  versions : List Version
deriving DecidableEq, Repr

def planVersion (bs : List Byte) (i : Nat) : Version :=
  { id := fieldAt bs (8 + 4 * i) 1, ordered := fieldAt bs (9 + 4 * i) 3, good := 0, state := .pending }

def Frame.plan (f : Frame) : Plan :=
  { id := f.num 0 2, cutOff := f.num 2 2, startWaste := f.num 4 2, standsByte := f.num 6 1, count := f.num 7 1,
    versions := (List.range (f.num 7 1)).map (planVersion f.payload) }

/-- Whether a frame's length fits its kind (10 section 10.5; an EDITION's as R150 says; a SHIP's goes with its stage;
a REQUEST has a subject of TALLY or STATUS, R180). -/
def Frame.lengthFits (f : Frame) : Bool :=
  let n := f.payload.length
  if f.kind = Kind.call then n == 8
  else if f.kind = Kind.offer then n == 12
  else if f.kind = Kind.take then n == 6
  else if f.kind = Kind.close then n == 1
  else if f.kind = Kind.gone then n == 6
  else if f.kind = Kind.ship then (n == 7 && f.shipStage == 1) || (n == 19 && f.shipStage == 2)
  else if f.kind = Kind.accept then n == 6
  else if f.kind = Kind.refuse then n == 7
  else if f.kind = Kind.landed then n == 6
  else if f.kind = Kind.edition then
    8 ≤ n && (f.num 7 1 == 0 || 6 < f.num 7 1 || n == 8 + 4 * f.num 7 1)
  else if f.kind = Kind.amend then n == 7
  else if f.kind = Kind.editionEnd then n == 2
  else if f.kind = Kind.divert then n == 2
  else if f.kind = Kind.request then n == 3 && (f.num 0 1 == 1 || f.num 0 1 == 2)
  else if f.kind = Kind.rollNotice then n == 19
  else false

/-- Which command of the table takes a frame from the head of the receive queue. A SHIP or REQUEST of no known stage or
subject, which R178 ignores, is taken by either of its two commands (log 25). -/
inductive FrameRow where
  | call | offer | take | close | gone | shipComing | shipReady | accept | refuse | landed
  | rollNotice | edition | amend | editionEnd | divert | requestTally | requestStatus
deriving DecidableEq, Repr

def FrameRow.takes (r : FrameRow) (f : Frame) : Bool :=
  match r with
  | .call => f.kind == Kind.call
  | .offer => f.kind == Kind.offer
  | .take => f.kind == Kind.take
  | .close => f.kind == Kind.close
  | .gone => f.kind == Kind.gone
  | .shipComing => f.kind == Kind.ship && f.shipStage != 2
  | .shipReady => f.kind == Kind.ship && f.shipStage != 1
  | .accept => f.kind == Kind.accept
  | .refuse => f.kind == Kind.refuse
  | .landed => f.kind == Kind.landed
  | .rollNotice => f.kind == Kind.rollNotice
  | .edition => f.kind == Kind.edition
  | .amend => f.kind == Kind.amend
  | .editionEnd => f.kind == Kind.editionEnd
  | .divert => f.kind == Kind.divert
  | .requestTally => f.kind == Kind.request && f.num 0 1 != 2
  | .requestStatus => f.kind == Kind.request && f.num 0 1 != 1

/-! ### A frame on the line (10 section 10.1) -/

/-- The bytes of a frame as the line carries them: kind, destination, source, length, payload and check. -/
def Frame.line (f : Frame) : List Byte :=
  let body := u8 f.kind ++ u8 f.dest ++ u8 f.src ++ u8 f.payload.length ++ f.payload
  body ++ u16 (frameCheck body)

/-- The frame that a line's bytes hold; none when the check is wrong, the length byte is above 32 or the bytes are not
as many as the length byte says (R176). -/
def frameOfLine (l : List Byte) : Option Frame :=
  let n := fieldAt l 3 1
  if l.length = n + 6 ∧ n ≤ 32 ∧ frameCheck (l.take (n + 4)) = fieldAt l (n + 4) 2 then
    some { kind := fieldAt l 0 1, dest := fieldAt l 1 1, src := fieldAt l 2 1, payload := (l.drop 4).take n }
  else none

end Sys2Proof.Machine
end

