-- ==== Sys2Proof/Machine/Ops.lean ====
section
/-!
DEFINITION. The named operations over the tables of the node: finding and changing a record of each table, reading a
field point, queuing a frame or an event (R177, R181), and the roll table's own operations (R1, R7, R8, R9).
-/
namespace Sys2Proof.Machine

/-! ### Time and configuration -/

/-- One microsecond of time: the two clocks run freely, 1,000 microseconds to a millisecond (00_scope, Time; log 1). -/
def Clock.tick (c : Clock) : Clock :=
  { ms := if 999 ≤ c.sub then c.ms + 1 else c.ms, us := c.us + 1, sub := if 999 ≤ c.sub then 0 else c.sub + 1 }

/-- With no command waiting the block idles and only time passes (log 1). -/
def State.idle (s : State) : State := { s with plant := { s.plant with clock := s.plant.clock.tick } }

def Plant.now (p : Plant) : Ticks := p.clock.ms
def Plant.nowUs (p : Plant) : Ticks := p.clock.us
def Plant.node (p : Plant) : NodeState := p.loader.node
def Plant.image (p : Plant) : Image := p.loader.image
def Plant.inRun (p : Plant) : Bool := p.node == .run
/-- In RUN on a LINE node: the edition counter, the waste unit and the stands act (R178). -/
def Plant.lineRun (p : Plant) : Bool := p.inRun && p.image.isLine

def Plant.stopCfg (p : Plant) (n : Nat) : Option StopCfg := p.image.stops.find? (·.num == n)
def Plant.standCfg (p : Plant) (n : Nat) : Option StandCfg := p.image.stands.find? (·.num == n)
def Plant.cartCfg (p : Plant) (n : Nat) : Option CartCfg := p.image.carts.find? (·.num == n)
def Plant.sectionCfg (p : Plant) (n : Nat) : Option SectionCfg := if n = 0 then none else p.image.sections[n - 1]?
def Plant.linkCfg (p : Plant) (n : Nat) : Option LinkCfg := if n = 0 then none else p.image.links[n - 1]?
def Plant.ringSize (p : Plant) : Nat := p.image.sections.length
def Plant.core (p : Plant) : Nat := p.image.core

/-- The grade table entry of a grade, where there is one (R14). -/
def Plant.gradeCfg (p : Plant) (g : Nat) : Option GradeCfg := p.image.grades[g]?

/-- The grade entry used wherever a caliper, tension or running Ds is needed: grade 0's for an absent grade (R14). -/
def Plant.gradeOr0 (p : Plant) (g : Option Nat) : GradeCfg :=
  (p.gradeCfg (g.getD 0)).getD { caliper := 0, ds := 0, minReturn := 0, tension := 0, lane := 0 }

/-- The configured stops in increasing stop number. -/
def Plant.stopCfgs (p : Plant) : List StopCfg := (oneTo 40).filterMap p.stopCfg
/-- The configured stands in increasing stand number. -/
def Plant.standCfgs (p : Plant) : List StandCfg := (oneTo 4).filterMap p.standCfg
def Plant.standNums (p : Plant) : List Nat := p.standCfgs.map (·.num)
def Plant.cartNums (p : Plant) : List Nat := (oneTo 4).filter fun n => (p.cartCfg n).isSome

def Plant.stopKind (p : Plant) (n : Nat) : Option StopKind := (p.stopCfg n).map (·.kind)
def Plant.stopSec (p : Plant) (n : Nat) : Option Nat := (p.stopCfg n).map (·.sec)

/-- The SCRAP stop: the lowest-numbered stop of that kind (R27). -/
def Plant.scrapStop (p : Plant) : Option Nat := (p.stopCfgs.find? (·.kind == .scrap)).map (·.num)
def Plant.parkStop (p : Plant) (cart : Nat) : Option Nat := (p.cartCfg cart).map (·.parkStop)

/-- The stops whose kind holds a PLACED record (R3, R18). -/
def holdsRolls : StopKind → Bool
  | .slot => true
  | .prep => true
  | .dock => true
  | .inn => true
  | .out => true
  | .stand => false
  | .scrap => false
  | .park => false
  | .unknown => false

/-! ### Finding and changing records -/

def Plant.stop? (p : Plant) (n : Nat) : Option Stop := p.traffic.stops.find? (·.num == n)
def Plant.cart? (p : Plant) (n : Nat) : Option Cart := p.traffic.carts.find? (·.num == n)
def Plant.section? (p : Plant) (n : Nat) : Option Section := p.traffic.sections.find? (·.num == n)
def Plant.task? (p : Plant) (n : Nat) : Option Task := p.sched.queue.find? (·.num == n)
def Plant.stand? (p : Plant) (n : Nat) : Option Stand := p.splice.stands.find? (·.num == n)
def Plant.module? (p : Plant) (n : Nat) : Option ModuleRec := p.modules.find? (·.num == n)
def Plant.link? (p : Plant) (n : Nat) : Option LinkRec := p.supply.links.find? (·.num == n)
def Plant.callOf? (p : Plant) (stand : Nat) : Option Call := p.supply.calls.find? (·.stand == stand)

def Plant.modStop (p : Plant) (n : Nat) (f : Stop → Stop) : Plant :=
  { p with traffic := { p.traffic with stops := updateIf (·.num == n) f p.traffic.stops } }
def Plant.modCart (p : Plant) (n : Nat) (f : Cart → Cart) : Plant :=
  { p with traffic := { p.traffic with carts := updateIf (·.num == n) f p.traffic.carts } }
def Plant.modSection (p : Plant) (n : Nat) (f : Section → Section) : Plant :=
  { p with traffic := { p.traffic with sections := updateIf (·.num == n) f p.traffic.sections } }
def Plant.modTask (p : Plant) (n : Nat) (f : Task → Task) : Plant :=
  { p with sched := { p.sched with queue := updateIf (·.num == n) f p.sched.queue } }
def Plant.modStand (p : Plant) (n : Nat) (f : Stand → Stand) : Plant :=
  { p with splice := { p.splice with stands := updateIf (·.num == n) f p.splice.stands } }
def Plant.modModule (p : Plant) (n : Nat) (f : ModuleRec → ModuleRec) : Plant :=
  { p with modules := updateIf (·.num == n) f p.modules }
def Plant.modLink (p : Plant) (n : Nat) (f : LinkRec → LinkRec) : Plant :=
  { p with supply := { p.supply with links := updateIf (·.num == n) f p.supply.links } }
def Plant.modCall (p : Plant) (stand : Nat) (f : Call → Call) : Plant :=
  { p with supply := { p.supply with calls := updateIf (·.stand == stand) f p.supply.calls } }
def Plant.modBus (p : Plant) (f : BusPort → BusPort) : Plant := { p with bus := f p.bus }

/-- The call record of a stand is freed (R49, R50). -/
def Plant.freeCall (p : Plant) (stand : Nat) : Plant :=
  { p with supply := { p.supply with calls := p.supply.calls.filter (·.stand != stand) } }

/-- Drop the holds that `which` picks. -/
def Plant.dropHolds (p : Plant) (which : Hold → Bool) : Plant :=
  { p with supply := { p.supply with holds := p.supply.holds.filter fun h => !which h } }

def Stand.arm (s : Stand) : Arm → ArmRec
  | .a => s.armA
  | .b => s.armB

def Stand.setArm (s : Stand) (m : Arm) (f : ArmRec → ArmRec) : Stand :=
  match m with
  | .a => { s with armA := f s.armA }
  | .b => { s with armB := f s.armB }

def Plant.modArm (p : Plant) (n : Nat) (m : Arm) (f : ArmRec → ArmRec) : Plant := p.modStand n fun s => s.setArm m f

def Plant.arm? (p : Plant) (n : Nat) (m : Arm) : Option ArmRec := (p.stand? n).map (·.arm m)

/-- A stand is RUNNING while one of its arms is its run arm (R122, R126). -/
def Stand.running (s : Stand) : Bool := s.runArm.isSome

/-- The standby arm: the arm of a RUNNING stand that is not in RUN (R122). -/
def Stand.standby (s : Stand) : Option Arm := s.runArm.map Arm.other

/-- The arm in a given state, arm A first. -/
def Stand.armIn (s : Stand) (st : ArmState) : Option Arm :=
  if s.armA.state = st then some .a else if s.armB.state = st then some .b else none

/-! ### Field points (R63, R64, R187): the last reading, held in the module's record -/

def ModuleRec.input (m : ModuleRec) (pt : Nat) : PointInput := if pt = 0 then .nothing else m.inputs.getD (pt - 1) .nothing

def inputOn : PointInput → Bool
  | .level b => b
  | .nothing => false
  | .tag _ _ _ => false
  | .gone _ => false

def Plant.moduleLost (p : Plant) (m : Nat) : Bool :=
  match p.module? m with
  | some r => r.lost
  | none => false

def Plant.level (p : Plant) (m pt : Nat) : Bool :=
  match p.module? m with
  | some r => inputOn (r.input pt)
  | none => false

def Plant.setInput (p : Plant) (m pt : Nat) (v : PointInput) : Plant :=
  p.modModule m fun r => { r with inputs := r.inputs.set (pt - 1) v }

/-- The roll sensor of a stop (second of its points, 10 section 10.6). -/
def Plant.sensor (p : Plant) (x : Nat) : Bool :=
  match p.stopCfg x with
  | some c => p.level c.modNo (c.firstPoint + 1)
  | none => false

/-- A stop on a lost module (R64). -/
def Plant.stopLost (p : Plant) (x : Nat) : Bool :=
  match p.stopCfg x with
  | some c => p.moduleLost c.modNo
  | none => false

def Plant.occupied (p : Plant) (s : Nat) : Bool :=
  match p.sectionCfg s with
  | some c => p.level c.modNo c.occPoint
  | none => false

def armPoint : Arm → Nat
  | .a => 4
  | .b => 5

def Plant.armLoaded (p : Plant) (n : Nat) (m : Arm) : Bool :=
  match p.standCfg n with
  | some c => p.level c.modNo (armPoint m)
  | none => false

def Plant.webPresent (p : Plant) (n : Nat) : Bool :=
  match p.standCfg n with
  | some c => p.level c.modNo 6
  | none => false

/-- A stop is empty when no record is located there and its roll sensor shows no roll (R3). -/
def Plant.stopEmpty (p : Plant) (x : Nat) : Bool :=
  match p.stop? x with
  | some s => s.roll.isNone && s.expected.isNone && !p.sensor x
  | none => false

/-! ### The transmit queue (R177) -/

/-- The lowest class among the frames not in flight. -/
def lowestWaiting (q : List TxEntry) : Option Nat :=
  ((q.filter fun e => !e.flying).map (·.frame.cls)).max?

/-- The queue less the youngest frame of class `c` not in flight. -/
def dropYoungest (c : Nat) (q : List TxEntry) : List TxEntry :=
  (q.reverse.eraseP fun e => !e.flying && e.frame.cls == c).reverse

/-- A frame is offered to the transmit queue (R177). -/
def BusPort.enqueue (b : BusPort) (f : Frame) : BusPort :=
  if b.tx.length < Config.txCap then { b with tx := b.tx ++ [{ frame := f, flying := false }] }
  else
    match lowestWaiting b.tx with
    | some c =>
      if f.cls < c then
        { b with tx := dropYoungest c b.tx ++ [{ frame := f, flying := false }]
                 txDrop := satAdd Config.max16 b.txDrop 1 }
      else { b with txDrop := satAdd Config.max16 b.txDrop 1 }
    | none => { b with txDrop := satAdd Config.max16 b.txDrop 1 }

def Msg.frame (m : Msg) (src dest : Nat) : Frame := { kind := m.kind, dest := dest, src := src, payload := m.payload }

/-- The node sends a message to a node, or to every station (destination 0). -/
def BusPort.send (b : BusPort) (dest : Nat) (m : Msg) : BusPort := b.enqueue (m.frame (numOr0 b.number) dest)

/-- An event takes the next event number and goes to destination 0 (R181). -/
def BusPort.sendEvent (b : BusPort) (e : Event) : BusPort :=
  { b.send 0 (.event b.eventNo e) with eventNo := wrapSucc 255 b.eventNo }

def Plant.send (p : Plant) (dest : Nat) (m : Msg) : Plant := p.modBus fun b => b.send dest m
def Plant.event (p : Plant) (e : Event) : Plant := p.modBus fun b => b.sendEvent e

/-! ### The roll table (R1, R7) -/

/-- The record a handle names, unless the handle is stale. -/
def Plant.roll? (p : Plant) (h : Handle) : Option Roll :=
  match p.rolls[h.idx]? with
  | some s => if s.gen = h.gen then s.roll else none
  | none => none

/-- Change the record a handle names; a stale handle is dropped (R7). -/
def Plant.modRoll (p : Plant) (h : Handle) (f : Roll → Roll) : Plant :=
  { p with rolls := p.rolls.modify h.idx fun s => if s.gen = h.gen then { s with roll := s.roll.map f } else s }

/-- Change a record only if it is in the state the change names (R7). -/
def Plant.modRollIn (p : Plant) (h : Handle) (st : RollState) (f : Roll → Roll) : Plant :=
  p.modRoll h fun r => if r.state = st then f r else r

/-- The lowest-numbered free index (R1). -/
def Plant.freeIndex (p : Plant) : Option Nat := p.rolls.findIdx? (·.roll.isNone)

/-- Put a new record at the lowest free index; none when all are in use (R1, R21). -/
def Plant.createRoll (p : Plant) (r : Roll) : Option (Handle × Plant) :=
  match p.freeIndex with
  | none => none
  | some i =>
    match p.rolls[i]? with
    | none => none
    | some s => some ({ idx := i, gen := s.gen }, { p with rolls := p.rolls.set i { s with roll := some r } })

/-- Free a record: its generation increases by one, 255 followed by 0 (R1). -/
def Plant.freeRoll (p : Plant) (h : Handle) : Plant :=
  { p with rolls := p.rolls.modify h.idx fun s =>
      if s.gen = h.gen && s.roll.isSome then { gen := wrapSucc 255 s.gen, roll := none } else s }

/-- Every record in use with its handle, in index order. -/
def Plant.records (p : Plant) : List (Handle × Roll) :=
  (p.rolls.zipIdx).filterMap fun (s, i) => s.roll.map fun r => ({ idx := i, gen := s.gen }, r)

/-- The record that holds a roll number (R20: at most one). -/
def Plant.holderOf (p : Plant) (n : Nat) : Option Handle := (p.records.find? fun hr => hr.2.num == some n).map (·.1)

/-- The roll number of a record, 0 for none, an unknown roll or a stale handle (10 section 10.5). -/
def Plant.rollNo (p : Plant) (h : Handle) : Nat :=
  match p.roll? h with
  | some r => numOr0 r.num
  | none => 0

def Plant.rollNoOf (p : Plant) (h : Option Handle) : Nat :=
  match h with
  | some h => p.rollNo h
  | none => 0

def Plant.refNo (p : Plant) : RollRef → Nat
  | .record h => p.rollNo h
  | .unrecorded => 0
  | .none => 0

/-- The record an arm, mark or folder roll names. -/
def Plant.refRoll (p : Plant) : RollRef → Option Roll
  | .record h => p.roll? h
  | .unrecorded => none
  | .none => none

/-- The record created when a roll is sensed where no record is (R18). -/
def unknownRoll (core : Nat) (st : RollState) (loc : Loc) : Roll :=
  { num := none, grade := none, width := none, core := core, diam := none, dock := none, state := st, loc := loc,
    claim := .none, prepared := false, part := false, rejected := false, unknown := true, runMetres := 0,
    runResidue := 0, copies := 0, waste := 0 }

/-- The record a snapshot gives (R15, R19): the default core where it gives none, unknown where it has no number. An unknown
record too keeps the dock sequence of its snapshot, as R19 says, though R2 calls it absent on an unknown roll (DESIGN CHOICE,
log 21). -/
def Snapshot.roll (s : Snapshot) (core : Nat) (st : RollState) (loc : Loc) (claim : Claim) (part : Bool) : Roll :=
  { num := if s.num = 0 then none else some s.num, grade := s.grade, width := s.width, core := s.core.getD core,
    diam := s.diam, dock := s.dock, state := st, loc := loc, claim := claim, prepared := false, part := part,
    rejected := false, unknown := s.num == 0, runMetres := 0, runResidue := 0, copies := 0, waste := 0 }

/-- Conditions for a claim (R8). -/
def Roll.mayClaim (r : Roll) (slot : Bool) : Claim → Bool
  | .none => false
  | .stand _ => r.claim == .none && !r.unknown && !r.rejected && (r.state == .placed || r.state == .expected)
  | .hold _ _ => r.claim == .none && !r.unknown && !r.rejected && r.state == .placed && slot
  | .ship _ => false

/-- A claim is released if the record still holds it (R9). -/
def Plant.release (p : Plant) (h : Handle) (c : Claim) : Plant :=
  p.modRoll h fun r => if r.claim = c then { r with claim := .none } else r

/-- A STAND claim on any stand is released (R9, R103). -/
def Plant.releaseStand (p : Plant) (h : Handle) : Plant :=
  p.modRoll h fun r =>
    match r.claim with
    | .stand _ => { r with claim := .none }
    | .none => r
    | .hold _ _ => r
    | .ship _ => r

/-- Some roll record carries the claim STAND(s) (R131). -/
def Plant.standClaimed (p : Plant) (s : Nat) : Bool := p.records.any fun hr => hr.2.claim == .stand s

/-! ### Remaining length to splice (R13, R117) -/

/-- 314,159 x (D^2 - Ds^2) / (40,000,000 x t), 0 when D does not exceed Ds. -/
def remainingLength (d ds t : Nat) : Nat :=
  if d ≤ ds then 0 else Config.pi5 * (d * d - ds * ds) / (40000000 * t)

/-- Of a stored roll: 0 when the grade or the diameter is absent (R13). -/
def Plant.storedRemaining (p : Plant) (r : Roll) : Nat :=
  match r.grade, r.diam with
  | some g, some d =>
    match p.gradeCfg g with
    | some c => remainingLength d c.ds c.caliper
    | none => 0
  | _, _ => 0

/-- A width within 5 mm either way of another (R31, R45, R52, R53). -/
def widthNear (w : Option Nat) (x : Nat) : Bool :=
  match w with
  | some w => w ≤ x + 5 && x ≤ w + 5
  | none => false

end Sys2Proof.Machine
end

