-- ==== Sys2Proof/Machine/Web.lean ====
section
/-!
DEFINITION. Web measurement (06): the accumulator and speed, the diameter estimator, the time to splice and the scale
trim, as functions of one stand's or one arm's record; and access to the web, edition and waste records of the node.
-/
namespace Sys2Proof.Machine

/-! ### Records of the press side -/

def State.modPlant (s : State) (f : Plant → Plant) : State := { s with plant := f s.plant }
def State.modPress (s : State) (f : Press → Press) : State := { s with press := f s.press }
def State.web? (s : State) (n : Nat) : Option WebStand := s.press.web.stands.find? (·.num == n)
def State.waste? (s : State) (n : Nat) : Option WasteStand := s.press.waste.stands.find? (·.num == n)
def State.stand? (s : State) (n : Nat) : Option Stand := s.plant.stand? n
def State.modWeb (s : State) (n : Nat) (f : WebStand → WebStand) : State :=
  s.modPress fun p => { p with web := { p.web with stands := updateIf (·.num == n) f p.web.stands } }
def State.modWasteStand (s : State) (n : Nat) (f : WasteStand → WasteStand) : State :=
  s.modPress fun p => { p with waste := { p.waste with stands := updateIf (·.num == n) f p.waste.stands } }
def State.modWaste (s : State) (f : WasteUnit → WasteUnit) : State := s.modPress fun p => { p with waste := f p.waste }
def State.modEdition (s : State) (f : EditionCounter → EditionCounter) : State :=
  s.modPress fun p => { p with edition := f p.edition }
def State.modStand (s : State) (n : Nat) (f : Stand → Stand) : State := s.modPlant fun p => p.modStand n f
def State.modArm (s : State) (n : Nat) (m : Arm) (f : ArmRec → ArmRec) : State := s.modPlant fun p => p.modArm n m f
def State.event (s : State) (e : Event) : State := s.modPlant fun p => p.event e

/-- The integer part of a stand's W (R105). -/
def State.webPos (s : State) (n : Nat) : WebPos :=
  match s.web? n with
  | some w => WebAcc.whole w.w
  | none => 0

/-- The stand's web speed, held from the last window. -/
def State.speed (s : State) (n : Nat) : Nat :=
  match s.web? n with
  | some w => w.v
  | none => 0

/-- In use: named by the loaded edition, or any configured stand while there is none (R122, R149). -/
def State.inUse (s : State) (n : Nat) : Bool :=
  match s.press.edition.state with
  | .none => (s.plant.standCfg n).isSome
  | .loaded => s.press.edition.stands.contains n
  | .running => s.press.edition.stands.contains n
  | .complete => s.press.edition.stands.contains n

/-- The stands in use, in increasing number. -/
def State.standsInUse (s : State) : List Nat := (oneTo 4).filter s.inUse

/-! ### Accumulator and speed (R105 to R107) -/

/-- An encoder pulse adds K, fraction and all (R106). -/
def WebStand.pulse (w : WebStand) : WebStand := { w with w := w.w + BitVec.ofNat 64 w.k }

/-- The advance since the last window (R107). -/
def WebStand.advance (w : WebStand) : Nat := (WebAcc.whole w.w - w.wLast).toNat

def speedOf (advance : Nat) : Nat := min 20000 (advance / 250)

def WebStand.window (w : WebStand) : WebStand := { w with wLast := WebAcc.whole w.w, v := speedOf w.advance }

/-! ### The estimator (R109 to R116) -/

/-- Caliper, core and recorded diameter of an arm's roll, read when they are needed (R111). -/
structure RollFigures where
  caliper : Nat
  core : Nat
  diam : Option Nat
deriving DecidableEq, Repr

def Plant.figures (p : Plant) (a : ArmRec) : RollFigures :=
  match p.refRoll a.roll with
  | some r => { caliper := (p.gradeOr0 r.grade).caliper, core := r.core, diam := r.diam }
  | none => { caliper := (p.gradeOr0 none).caliper, core := p.core, diam := none }

/-- D_meas (R109). -/
def measuredDiameter (lRev : Nat) : Nat := (lRev * 1000 + 157079) / Config.pi5

def RollFigures.valid (g : RollFigures) (d : Nat) : Bool := g.core ≤ d && d ≤ 16000

/-- The squared estimate less the paper of a web length, not below the core's (R113, R115, R116). The core read may have risen above
D_filt while the arm runs (a notice or a merge gives the roll a larger core): R110 says that D_filt never increases, and the model
follows the floor (DESIGN CHOICE, log 72). -/
def RollFigures.consume (g : RollFigures) (sq len : Nat) : Nat :=
  max (g.core * g.core) (sq - 40 * g.caliper * len / Config.pi5)

def Estimator.consume (e : Estimator) (g : RollFigures) (len : Nat) : Estimator :=
  let sq := g.consume (e.sq.getD 0) len
  { e with sq := some sq, dFilt := some (isqrt sq) }

def Estimator.setD (e : Estimator) (d : Nat) : Estimator := { e with dFilt := some d, sq := some (d * d) }

/-- The seeding diameter (R112). -/
def RollFigures.seed (g : RollFigures) (d : Nat) : Nat :=
  max g.core (min d (match g.diam with | some x => x + 100 | none => 16000))

/-- A window in COAST: the window's advance is taken off, or what a PULSE_LOST taken before the expiry has left of it (R116,
log 32). -/
def Estimator.coast (e : Estimator) (g : RollFigures) (w : WebPos) (advance : Nat) : Estimator :=
  { e.consume g (match e.coastFrom with | some x => (w - x).toNat | none => advance) with coastFrom := none }

/-- An arm becomes RUN (R110). -/
def Estimator.enterSeeding (e : Estimator) : Estimator :=
  { e with mode := .seeding, dFilt := none, sq := none, lastCap := none, rejects := 0, suspect := false }

/-- Within 200 dmm of the estimate, either way (R113). -/
def near200 (a b : Nat) : Bool := a ≤ b + 200 && b ≤ a + 200

def Estimator.accept (e : Estimator) (d : Nat) : Estimator :=
  let f := e.dFilt.getD 0
  if d < f then { e.setD (f - (f - d) / 8) with rejects := 0 } else { e with rejects := 0 }

/-- A rejected revolution (R113, R114); the answer is the D_filt and D_meas of a DIAMETER_SUSPECT to send. -/
def Estimator.reject (e : Estimator) (g : RollFigures) (d lRev : Nat) : Estimator × Option (Nat × Nat) :=
  let e := { e.consume g lRev with rejects := satAdd 255 e.rejects 1 }
  if e.rejects < 4 then (e, none)
  else if g.valid d = true ∧ d < e.dFilt.getD 0 then ({ e.setD d with rejects := 0 }, none)
  else if e.suspect then (e, none)
  else ({ e with suspect := true }, some (e.dFilt.getD 0, d))

/-- A measurement by mode (R112, R113). -/
def Estimator.measure (e : Estimator) (g : RollFigures) (lRev : Nat) : Estimator × Option (Nat × Nat) :=
  let d := measuredDiameter lRev
  match e.mode with
  | .seeding => (if g.valid d then { e.setD (g.seed d) with mode := .measuring } else e, none)
  | .measuring =>
    if g.valid d = true ∧ near200 d (e.dFilt.getD 0) = true then (e.accept d, none) else e.reject g d lRev
  | .coast => (e, none)
  | .none => (e, none)

/-- A revolution pulse of a RUN arm: the time, the capture, then a reference or a measurement (R109, R116). -/
def Estimator.pulse (e : Estimator) (g : RollFigures) (now : Ticks) (cap : WebPos) : Estimator × Option (Nat × Nat) :=
  let e' := { e with lastTime := now, lastCap := some cap }
  match e.mode, e.lastCap with
  | .coast, _ => ({ e' with mode := .measuring }, none)
  | _, none => (e', none)
  | _, some old => e'.measure g (cap - old).toNat

/-- T_exp, for a speed of at least 500 (R115). -/
def expectedPeriod (d v : Nat) : Nat := Config.pi5 * d / v

/-- Pulses are lost: MEASURING, at least 500 mm/s and more than two expected periods since the last pulse (R115; 00_scope,
Time). -/
def Estimator.pulseGone (e : Estimator) (v : Nat) (now : Ticks) : Bool :=
  e.mode == .measuring && 500 ≤ v && longerThan (2 * expectedPeriod (e.dFilt.getD 0) v) now e.lastTime

/-- The estimator enters COAST, less the web since the last capture, up to `w` (R115). -/
def Estimator.enterCoast (e : Estimator) (g : RollFigures) (w : WebPos) : Estimator :=
  let len := match e.lastCap with
    | some c => (w - c).toNat
    | none => 0
  { e.consume g len with mode := .coast, lastCap := none, rejects := 0, coastFrom := none }

/-! ### Forecast (R117, R118) -/

/-- The running roll's remaining length to splice; none when it is not known (R117). -/
def Plant.runningRemaining (p : Plant) (a : ArmRec) : Option Nat :=
  let r := p.refRoll a.roll
  let g := p.gradeOr0 (r.bind (·.grade))
  let d :=
    match a.est.mode with
    | .measuring => a.est.dFilt
    | .coast => a.est.dFilt
    | .seeding => r.bind (·.diam)
    | .none => none
  d.map fun d => remainingLength d g.ds g.caliper

/-- T_s (R118). -/
def timeToSplice (remaining : Option Nat) (v : Nat) : Nat :=
  match remaining with
  | none => Config.noForecast
  | some l => if v < 500 then Config.noForecast else min 65534 (l * 1000 / v)

/-! ### Scale trim (R119 to R121) -/

def WebStand.discardTrim (w : WebStand) : WebStand := { w with trimStart := none, trimCount := 0 }

/-- The scale factor at a window's end, and the cause of a TRIM_LIMIT if one is sent (R121). -/
def trimmedK (k k0 copies cutOff measured : Nat) : Nat × Option Nat :=
  if measured = 0 then (k, some Reason.trimNoPulses)
  else
    let raw := (k * (copies * cutOff * 1000) + measured / 2) / measured
    let step := clampTo (k - k / 200) (k + k / 200) raw
    let lo := k0 - 3 * k0 / 100
    let hi := k0 + 3 * k0 / 100
    if hi < step then (hi, some Reason.trimHigh) else if step < lo then (lo, some Reason.trimLow) else (step, none)

/-- A trim window ends and begins again (R121). -/
def WebStand.endTrim (w : WebStand) (c : StandCfg) (cutOff : Nat) : WebStand × Option Nat :=
  match w.trimStart with
  | none => (w, none)
  | some start =>
    let measured := (WebAcc.whole w.w - start).toNat
    let (k, cause) := trimmedK w.k c.k0 c.trimLen cutOff measured
    ({ w with k := k, trimStart := some (WebAcc.whole w.w), trimCount := 0 }, cause)

/-- A GOOD copy opens a window or is counted in it (R119). -/
def WebStand.goodCopy (w : WebStand) : WebStand :=
  match w.trimStart with
  | none => { w with trimStart := some (WebAcc.whole w.w), trimCount := 0 }
  | some _ => { w with trimCount := w.trimCount + 1 }

def State.discardTrims (s : State) : State :=
  s.modPress fun p => { p with web := { p.web with stands := p.web.stands.map WebStand.discardTrim } }

/-- A trim window whose count has reached N ends (R121). -/
def State.endTrimOf (s : State) (n : Nat) : State :=
  match s.web? n, s.plant.standCfg n with
  | some w, some c =>
    if w.trimStart.isSome = true ∧ c.trimLen ≤ w.trimCount then
      let (w', cause) := w.endTrim c s.press.edition.cutOff
      let s := s.modWeb n fun _ => w'
      match cause with
      | some why => s.event (.trimLimit n w'.k why)
      | none => s
    else s
  | _, _ => s

end Sys2Proof.Machine
end

