-- ==== Sys2Proof/Machine/BusPort.lean ====
section
/-!
DEFINITION. The bus port (10): receiving (R176), attempts and SILENT (R174, R175, R179), and the hand-over of the frame at
the head of the receive queue (R178).
-/
namespace Sys2Proof.Machine

/-! ### Receiving (R176, R179) -/

/-- A frame is for this node and of a kind that some block takes. -/
def BusPort.keeps (b : BusPort) (f : Frame) : Bool := (some f.dest == b.number || f.dest == 0) && f.takenKind

/-- A frame with a good check joins the receive queue, or is left, or is lost to a full queue. -/
def BusPort.keep (b : BusPort) (f : Frame) : BusPort :=
  if b.keeps f then
    if b.rx.length < Config.rxCap then { b with rx := b.rx ++ [f] }
    else { b with overrun := satAdd Config.max16 b.overrun 1 }
  else b

/-- A frame is seen on the line. Without a node number the port acknowledges, keeps and counts nothing (R179). -/
def BusPort.receive (b : BusPort) (line : List Byte) : BusPort :=
  if b.number.isNone then { b with ackDriven := false }
  else
    match frameOfLine line with
    | none => { b with ackDriven := false, checkErr := satAdd Config.max16 b.checkErr 1 }
    | some f => { b.keep f with ackDriven := b.link == .active }

/-! ### Attempts (R174, R175) -/

/-- The first frame in queue order: the lowest class, the oldest of it (R177). -/
def firstInOrder : List TxEntry → Option Nat
  | q => argMin (fun i => [((q[i]?).map fun e => e.frame.cls).getD 0, i]) (List.range q.length)

def BusPort.inFlight (b : BusPort) : Bool := b.tx.any (·.flying)

/-- An attempt starts (R174, R179). -/
def BusPort.startAttempt (b : BusPort) : BusPort :=
  if b.number.isSome = true ∧ b.link = .active ∧ b.inFlight = false then
    match firstInOrder b.tx with
    | some i => { b with tx := b.tx.modify i fun e => { e with flying := true } }
    | none => b
  else b

def BusPort.land (b : BusPort) : BusPort := { b with tx := b.tx.map fun e => { e with flying := false } }

/-- Arbitration is lost: the frame stays, nothing is counted (R174). -/
def BusPort.loseArbitration (b : BusPort) : BusPort := b.land

/-- The frame leaves the queue; a broadcast is received by the node itself (R175). -/
def BusPort.succeed (b : BusPort) : BusPort :=
  match b.tx.find? (·.flying) with
  | none => b
  | some e =>
    let b := { b with tx := b.tx.filter fun e => !e.flying, failures := 0 }
    if e.frame.dest = 0 then b.keep e.frame else b

/-- Eight consecutive failures: SILENT for 1 s (R175). -/
def BusPort.enterSilent (b : BusPort) (now : Ticks) : BusPort :=
  if Config.failureCap ≤ b.failures ∧ b.link = .active then
    { b with link := .silent, silentEnd := some (now + Config.silentWait),
             silentEntries := satAdd Config.max16 b.silentEntries 1 }
  else b

/-- The attempt fails (R175). -/
def BusPort.fail (b : BusPort) (now : Ticks) : BusPort :=
  if b.inFlight then ({ b.land with failures := satAdd Config.failureCap b.failures 1 }).enterSilent now else b

/-- SILENT ends (R175). -/
def BusPort.endSilent (b : BusPort) (now : Ticks) : BusPort :=
  if b.link = .silent ∧ reached? now b.silentEnd = true then
    { b with link := .active, silentEnd := none, failures := 0 }
  else b

/-! ### The head of the receive queue (R178) -/

/-- The owner of a kind takes it in this node state and class, for this destination (R178). -/
def Plant.ownerTakes (p : Plant) (row : FrameRow) (f : Frame) : Bool :=
  match row with
  | .call => p.inRun
  | .close => p.inRun
  | .offer => p.inRun && f.dest != 0
  | .take => p.inRun && f.dest != 0
  | .gone => p.inRun && f.dest != 0
  | .shipComing => p.inRun && f.dest != 0
  | .shipReady => p.inRun && f.dest != 0
  | .accept => p.inRun && f.dest != 0
  | .refuse => p.inRun && f.dest != 0
  | .landed => p.inRun && f.dest != 0
  | .rollNotice => p.inRun && f.dest != 0
  | .edition => p.lineRun && f.dest != 0
  | .amend => p.lineRun && f.dest != 0
  | .editionEnd => p.lineRun && f.dest != 0
  | .divert => p.lineRun && f.dest != 0
  | .requestTally => p.lineRun && f.dest != 0
  | .requestStatus => (p.inRun && f.dest != 0) || p.node == .survey || p.node == .halted

/-- A frame is ignored: removed and counted (R178). -/
def State.ignoreFrame (s : State) : State :=
  s.modPlant fun p => p.modBus fun b => { b with ignored := satAdd Config.max16 b.ignored 1 }

def State.popFrame (s : State) : State := s.modPlant fun p => p.modBus fun b => { b with rx := b.rx.drop 1 }

/-- The frame at the head of the receive queue is handed to its owner (R178). -/
def State.takeHead (s : State) (row : FrameRow) (act : Frame → State → State) : State :=
  match s.plant.bus.rx with
  | [] => s
  | f :: _ =>
    if row.takes f then
      if f.lengthFits = true ∧ s.plant.ownerTakes row f = true then act f s.popFrame else s.popFrame.ignoreFrame
    else s

end Sys2Proof.Machine
end

