-- ==== Sys2Proof/Machine/BusCommands.lean ====
section
/-!
DEFINITION. The commands of the bus port (10, R174 to R176, R179).
-/
namespace Sys2Proof.Machine

/-- FRAME_RECEIVED (R176, R179). -/
def execFrameReceived (line : List Byte) (s : State) : Host.Outcome State Fault Refusal :=
  .next (s.modPlant fun p => p.modBus fun b => b.receive line)

/-- ATTEMPT_START (R174). -/
def execAttemptStart (s : State) : Host.Outcome State Fault Refusal :=
  .next (s.modPlant fun p => p.modBus fun b => b.startAttempt)

/-- ARBITRATION_LOST (R174). -/
def execArbitrationLost (s : State) : Host.Outcome State Fault Refusal :=
  .next (s.modPlant fun p => p.modBus fun b => b.loseArbitration)

/-- ATTEMPT_SUCCEEDED (R175). -/
def execAttemptSucceeded (s : State) : Host.Outcome State Fault Refusal :=
  .next (s.modPlant fun p => p.modBus fun b => b.succeed)

/-- ATTEMPT_FAILED (R175); the eighth in a row makes the link SILENT at once (log 30). -/
def execAttemptFailed (s : State) : Host.Outcome State Fault Refusal :=
  .next (s.modPlant fun p => p.modBus fun b => b.fail p.now)

/-- SILENT_ENTRY (R175): with eight consecutive failures the link becomes SILENT for 1 s. -/
def execSilentEntry (s : State) : Host.Outcome State Fault Refusal :=
  .next (s.modPlant fun p => p.modBus fun b => b.enterSilent p.now)

/-- SILENT_END (R175): after 1 s the link is ACTIVE again. -/
def execSilentEnd (s : State) : Host.Outcome State Fault Refusal :=
  .next (s.modPlant fun p => p.modBus fun b => b.endSilent p.now)

end Sys2Proof.Machine
end

