-- ==== Sys2Proof/Machine/Waste.lean ====
section
/-!
DEFINITION. The waste unit (09): splice marks and folder rolls (R162 to R164), the break latch (R167), the class of a copy
(R168), the gate (R169) and attribution (R170).
-/
namespace Sys2Proof.Machine

/-! ### Marks (R162, R163) -/

def Mark.folderPoint (m : Mark) (c : StandCfg) : WebPos := m.pos + mm c.pathLen
def Mark.openPoint (m : Mark) (c : StandCfg) : WebPos := m.folderPoint c - mm c.pre
def Mark.closePoint (m : Mark) (c : StandCfg) : WebPos := m.folderPoint c + mm c.post

/-- The mark's window is open (R163). -/
def Mark.isOpen (m : Mark) (c : StandCfg) (w : WebPos) : Bool := passed w (m.openPoint c) && !passed w (m.closePoint c)

/-- Marks taken from the head against W: the folder roll moves, passed marks go (R163). -/
def bringMarks (c : StandCfg) (w : WebPos) : List Mark → RollRef → List Mark × RollRef
  | [], f => ([], f)
  | m :: ms, f =>
    let move := passed w (m.folderPoint c) && !m.reached
    let f := if move then m.new else f
    if passed w (m.closePoint c) then bringMarks c w ms f
    else ({ m with reached := m.reached || move } :: ms, f)

/-- A stand's queue is brought up to date against W (R163). -/
def State.bringUp (s : State) (n : Nat) : State :=
  match s.plant.standCfg n with
  | some c =>
    s.modWasteStand n fun w =>
      { w with marks := (bringMarks c (s.webPos n) w.marks w.folder).1
               folder := (bringMarks c (s.webPos n) w.marks w.folder).2 }
  | none => s

def State.bringAll (s : State) : State := forEach (oneTo 4) State.bringUp s

/-- With 4 marks queued the oldest is resolved: its folder-roll change is made and it is removed (R162). -/
def State.resolveOldest (s : State) (n : Nat) : State :=
  match s.waste? n with
  | some w =>
    match w.marks with
    | m :: ms =>
      if w.marks.length < Config.markCap then s
      else
        (s.modWasteStand n fun w => { w with marks := ms, folder := if m.reached then w.folder else m.new }).event
          (.markForced n m.pos (s.plant.refNo m.old) (s.plant.refNo m.new))
    | [] => s
  | none => s

/-- A splice mark is pushed (R162). -/
def State.pushMark (s : State) (n : Nat) (old new : RollRef) : State :=
  ((s.bringUp n).resolveOldest n).modWasteStand n fun w =>
    { w with marks := w.marks ++ [{ pos := s.webPos n, old := old, new := new, reached := false }] }

/-- A stand becomes RUNNING from IDLE: its marks go and its folder roll is the RUN arm's (R164). -/
def State.resetFolder (s : State) (n : Nat) (r : RollRef) : State :=
  s.modWasteStand n fun w => { w with marks := [], folder := r }

/-- The stand's splice window is open (R163). -/
def State.windowOpen (s : State) (n : Nat) : Bool :=
  match s.waste? n, s.plant.standCfg n with
  | some w, some c => w.marks.any fun m => m.isOpen c (s.webPos n)
  | _, _ => false

/-- A break or failure report sets the latch (R167). -/
def State.latchBreak (s : State) : State := s.modWaste fun w => { w with latch := true }

/-- A SPLICE_FAILED report sets the latch on a stand in use with the press-run input on (R139, R167). -/
def State.latchFailure (s : State) (n : Nat) : State := if s.inUse n ∧ s.plant.pressRun = true then s.latchBreak else s

/-! ### The class of a copy (R168) -/

inductive CopyClass where
  | good | start | splice | brk | manual | overrun
deriving DecidableEq, Repr

/-- The current version is COMPLETE, or absent (R168 step 5). -/
def EditionCounter.versionDone (e : EditionCounter) : Bool :=
  match e.cur with
  | none => true
  | some i =>
    match e.versions[i - 1]? with
    | some v => v.state == .complete
    | none => true

def State.classOf (s : State) : CopyClass :=
  if s.press.waste.latch then .brk
  else if 0 < s.press.waste.start then .start
  else if s.standsInUse.any s.windowOpen then .splice
  else if 0 < s.press.waste.manual then .manual
  else if s.press.edition.versionDone then .overrun
  else .good

/-- The class reduces at most one remainder (R168). -/
def WasteUnit.reduce (w : WasteUnit) : CopyClass → WasteUnit
  | .start => { w with start := w.start - 1 }
  | .manual => { w with manual := w.manual - 1 }
  | .good => w
  | .splice => w
  | .brk => w
  | .overrun => w

/-- The waste gate (R169). -/
def State.setGate (s : State) (on : Bool) : State := s.modWaste fun w => { w with gate := on }

/-! ### Attribution (R12, R170) -/

def Roll.countCopy (r : Roll) (waste : Bool) : Roll :=
  { r with copies := satAdd Config.max32 r.copies 1
           waste := if waste then satAdd Config.max32 r.waste 1 else r.waste }

/-- The folder roll of a stand; none where it has none. -/
def State.folder (s : State) (n : Nat) : RollRef :=
  match s.waste? n with
  | some w => w.folder
  | none => RollRef.none

/-- One copy on one stand's folder roll, or on the unattributed counter. -/
def State.attributeOn (waste : Bool) (s : State) (n : Nat) : State :=
  let lost := s.modWaste fun w => { w with unattributed := satAdd Config.max32 w.unattributed 1 }
  match s.folder n with
  | .record h =>
    if (s.plant.roll? h).isSome then s.modPlant fun p => p.modRoll h fun r => r.countCopy waste else lost
  | .unrecorded => lost
  | .none => lost

def State.attribute (s : State) (waste : Bool) : State := forEach s.standsInUse (State.attributeOn waste) s

end Sys2Proof.Machine
end

