-- ==== Sys2Proof/Machine/Edition.lean ====
section
/-!
DEFINITION. The edition counter (08, R148 to R160) and its tallies (09, R171, R172).
-/
namespace Sys2Proof.Machine

/-! ### Tallies (R158, R171, R172) -/

/-- The parts of a tally, in their order (R171); in NONE a NODE part alone. R171 has it carry cause REQUEST, but the NODE layout of
10 section 10.5 has no cause field: the model goes by the layout (DESIGN CHOICE, log 49). -/
def Press.tallyParts (p : Press) (cause : TallyCause) : List TallyPart :=
  let e := p.edition
  let node := TallyPart.node e.unplanned p.waste.unattributed p.waste.start p.waste.manual
  if e.state = .none then [node]
  else
    [.head cause (numOr0 e.id) e.state (numOr0 e.cur) e.cutOff e.startWaste (standsByte e.stands), .counts e.counts] ++
      (e.versions.zipIdx.map fun (v, i) => .version (i + 1) v) ++ [node]

/-- A tally is made and all its parts are queued at once. -/
def State.tally (s : State) (cause : TallyCause) (dest : Nat) : State :=
  let parts := s.press.tallyParts cause
  let n := s.press.edition.tallyNo
  (s.modPlant fun p =>
    forEach parts.zipIdx (fun p (part, i) => p.send dest (.tally n (i + 1) parts.length part)) p).modEdition fun e =>
      { e with tallyNo := wrapSucc 255 e.tallyNo }

/-! ### Versions (R157) -/

def EditionCounter.modVersion (e : EditionCounter) (i : Nat) (f : Version → Version) : EditionCounter :=
  { e with versions := e.versions.modify (i - 1) f }

def EditionCounter.current (e : EditionCounter) : Option Version := e.cur.bind fun i => e.versions[i - 1]?

/-- The version at position `i` completes (R157). -/
def State.completeVersion (s : State) (i : Nat) : State :=
  match s.press.edition.versions[i - 1]? with
  | none => s
  | some v =>
    let e := s.press.edition
    let s := (s.modEdition fun e => e.modVersion i fun v => { v with state := .complete }).event
      (.versionDone (numOr0 e.id) v.id v.ordered v.good)
    if i = e.versions.length then
      (((s.modEdition fun e => { e with state := .complete }).event (.editionDone (numOr0 e.id))).tally .editionDone
        0).modEdition fun e => { e with finalSent := true }
    else s.tally .versionDone 0

/-- A version whose good count has reached its ordered count completes. -/
def State.checkVersion (s : State) : State :=
  match s.press.edition.cur, s.press.edition.current with
  | some i, some v => if v.state = .running ∧ v.good = v.ordered then s.completeVersion i else s
  | _, _ => s

/-! ### Copies (R156, R157, R119, R120) -/

def Counters.add (c : Counters) : CopyClass → Counters
  | .good => { c with gross := c.gross + 1, good := c.good + 1 }
  | .start => { c with gross := c.gross + 1, start := c.start + 1 }
  | .splice => { c with gross := c.gross + 1, splice := c.splice + 1 }
  | .brk => { c with gross := c.gross + 1, brk := c.brk + 1 }
  | .manual => { c with gross := c.gross + 1, manual := c.manual + 1 }
  | .overrun => { c with gross := c.gross + 1, overrun := c.overrun + 1 }

/-- A counted copy; with gross at its largest value it is counted in none of the seven counters (R156). -/
def EditionCounter.count (e : EditionCounter) (k : CopyClass) : EditionCounter :=
  if e.counts.gross ≥ Config.max32 then e
  else
    let e := { e with counts := e.counts.add k }
    match k, e.cur with
    | .good, some i => e.modVersion i fun v => { v with good := v.good + 1 }
    | _, _ => e

/-- What the trim windows make of a copy (R119 to R121). -/
def State.trimCopy (s : State) (k : CopyClass) : State :=
  if k = .good then
    forEach s.standsInUse (fun s n => (s.modWeb n WebStand.goodCopy).endTrimOf n) s
  else s.discardTrims

/-- A copy pulse (R156). -/
def State.copyPulse (s : State) : State :=
  let s := s.bringAll
  if s.press.edition.state = .loaded ∨ s.press.edition.state = .running then
    let k := s.classOf
    ((((((s.modWaste fun w => w.reduce k).setGate (k != .good)).attribute (k != .good)).modEdition fun e =>
      e.count k).trimCopy k).checkVersion)
  else
    (((s.setGate true).attribute true).modEdition fun e =>
      { e with unplanned := satAdd Config.max32 e.unplanned 1 }).discardTrims

/-! ### Press edges (R154, R155, R165) -/

/-- What a rising edge makes of the edition record (R154). -/
def EditionCounter.pressStart (e : EditionCounter) : EditionCounter :=
  match e.state with
  | .loaded => { (e.modVersion 1 fun v => { v with state := .running }) with cur := some 1, state := .running }
  | .running =>
    match e.cur, e.current with
    | some i, some v =>
      if v.state = .complete ∧ i < e.versions.length then
        { (e.modVersion (i + 1) fun v => { v with state := .running }) with cur := some (i + 1) }
      else e
    | _, _ => e
  | .none => e
  | .complete => e

/-- The edge advances to the next version (R149, R154). -/
def EditionCounter.advances (e : EditionCounter) : Bool := e.state == .running && e.pressStart.cur != e.cur

/-- The START remainder at a rising edge (R165). -/
def EditionCounter.startRemainder (e : EditionCounter) : Nat := if e.state = .none then 0 else e.startWaste

def State.pressRise (s : State) : State :=
  let e := s.press.edition
  let s := (s.modWaste fun w => { w with start := e.startRemainder }).modEdition EditionCounter.pressStart
  if e.advances then s.discardTrims else s

/-! ### Plan frames (R150 to R152) -/

/-- The reason an EDITION's plan is refused, if it is: the checks in the order of R150. -/
def State.planRefusal (s : State) (pl : Plan) : Option Nat :=
  if pl.cutOff < 400 ∨ 700 < pl.cutOff ∨ 2000 < pl.startWaste then some Reason.badPlan
  else if pl.standsByte = 0 ∨ 15 < pl.standsByte ∨
      (standsOfByte pl.standsByte).any (fun n => (s.plant.standCfg n).isNone) = true then some Reason.badStand
  else if pl.count = 0 then some Reason.badPlan
  else if 6 < pl.count then some Reason.tooManyVersions
  else if ¬ (pl.versions.map (·.id)).Nodup then some Reason.duplicateVersion
  else if pl.versions.any (fun v => v.ordered == 0 || 2000000 < v.ordered) then some Reason.badPlan
  else none

/-- The waste unit and the trim windows at a load or an END (R120, R173). -/
def State.editionChanged (s : State) : State :=
  (s.modWaste fun w => { w with start := 0, manual := 0 }).discardTrims

/-- A plan is loaded (R150). -/
def State.loadPlan (s : State) (pl : Plan) : State :=
  (s.modEdition fun e =>
    { state := .loaded, id := some pl.id, cutOff := pl.cutOff, startWaste := pl.startWaste,
      stands := standsOfByte pl.standsByte, versions := pl.versions, cur := none, counts := Counters.zero,
      finalSent := false, unplanned := e.unplanned, tallyNo := e.tallyNo }).editionChanged

/-- EDITION (R150). -/
def State.takeEdition (s : State) (pl : Plan) : State :=
  if s.press.edition.state = .loaded ∨ s.press.edition.state = .running then
    s.event (.editionRefused Kind.edition pl.id Reason.active)
  else
    match s.planRefusal pl with
    | some why => s.event (.editionRefused Kind.edition pl.id why)
    | none => s.loadPlan pl

/-- END (R151). -/
def State.takeEnd (s : State) (id : Nat) : State :=
  let e := s.press.edition
  if e.state = .none ∨ e.id ≠ some id then s.event (.editionRefused Kind.editionEnd id Reason.notLoaded)
  else
    let s := if e.finalSent then s else s.tally .ended 0
    (s.modEdition fun e =>
      { EditionCounter.reset with unplanned := e.unplanned, tallyNo := e.tallyNo }).editionChanged

/-- The position of a version by its ID, from 1. -/
def EditionCounter.position (e : EditionCounter) (vid : Nat) : Option Nat :=
  (e.versions.findIdx? (·.id == vid)).map (· + 1)

/-- Why an AMEND is refused, if it is (R152). -/
def EditionCounter.amendRefusal (e : EditionCounter) (id vid count : Nat) : Option Nat :=
  if e.state = .none ∨ e.id ≠ some id then some Reason.noEdition
  else
    match e.position vid with
    | none => some Reason.noVersion
    | some i =>
      if count = 0 ∨ 2000000 < count then some Reason.badCount
      else if i < e.cur.getD 0 then some Reason.passedVersion
      else none

/-- The amended version; a COMPLETE one above its good count is RUNNING again (R152). -/
def Version.amend (v : Version) (count : Nat) : Version :=
  let n := max count v.good
  { v with ordered := n, state := if v.state = .complete ∧ v.good < n then .running else v.state }

/-- A COMPLETE edition whose version is RUNNING again returns to RUNNING (R152). -/
def EditionCounter.reopen (e : EditionCounter) : EditionCounter :=
  if e.state = .complete ∧ e.versions.any (fun v => v.state == .running) = true then
    { e with state := .running, finalSent := false }
  else e

/-- AMEND (R152). -/
def State.takeAmend (s : State) (id vid count : Nat) : State :=
  match s.press.edition.amendRefusal id vid count with
  | some why => s.event (.amendRefused id vid why)
  | none =>
    let i := (s.press.edition.position vid).getD 0
    let s := s.modEdition fun e => (e.modVersion i fun v => v.amend count).reopen
    if s.press.edition.cur = some i then s.checkVersion else s

/-! ### Need forecast (R159) -/

def copiesOwed (l : List Version) : Nat := (l.map fun v => v.ordered - v.good).sum

/-- The need in metres; none while no edition is loaded: unlimited (R159). -/
def EditionCounter.need (e : EditionCounter) (stand : Nat) : Option Nat :=
  let metres (l : List Version) (starts : Nat) : Nat :=
    ((copiesOwed l + e.startWaste * starts) * e.cutOff + 999) / 1000
  match e.state with
  | .none => none
  | .complete => some 0
  | .loaded => some (if e.stands.contains stand then metres e.versions e.versions.length else 0)
  | .running =>
    some (if e.stands.contains stand then
      match e.cur with
      | some i => metres (e.versions.drop (i - 1)) (e.versions.drop i).length
      | none => metres e.versions e.versions.length
    else 0)

/-- DIVERT (R166). -/
def State.takeDivert (s : State) (n : Nat) : State :=
  if n = 0 ∨ 1000 < n then s.event (.divertRefused n)
  else s.modWaste fun w => { w with manual := satAdd Config.max16 w.manual n }

end Sys2Proof.Machine
end

