-- ==== Sys2Proof/Machine/Track.lean ====
section
/-!
DEFINITION. The track: sections, points and claims (R63 to R66, R71), the arbiter (R68, R69), drive levels (R70) and
legs (R73 to R77). Nothing here creates tasks or moves rolls.
-/
namespace Sys2Proof.Machine

/-! ### Points, sections and claims -/

/-- A point is commanded unless its field module is lost (R65). -/
def Plant.setPoint (p : Plant) (x : Nat) (v : Point) : Plant :=
  if p.stopLost x then p else p.modStop x fun s => { s with point := v }

/-- A section becomes FREE at drive level STOP and every point on it is set to RING (R65, R66). -/
def Plant.freeSection (p : Plant) (n : Nat) : Plant :=
  forEach (p.stopCfgs.filter (·.sec == n)) (fun p c => p.setPoint c.num .ring)
    (p.modSection n fun s => { s with state := .free, level := .stop })

/-- Sections held by a cart return to FREE (R71). -/
def Plant.releaseSections (p : Plant) (cart : Nat) (secs : List Nat) : Plant :=
  forEach secs (fun p n =>
    match p.section? n with
    | some s => if s.state.holder = some cart then p.freeSection n else p
    | none => p) p

/-- The sections whose record names a cart as holder. -/
def Plant.sectionsHeldBy (p : Plant) (cart : Nat) : List Nat :=
  (p.traffic.sections.filter fun s => s.state.holder == some cart).map (·.num)

/-- A cart is expected in a section of its held list and in its recorded position (R66). -/
def Cart.expectedIn (c : Cart) (n : Nat) : Bool := c.held.contains n || c.pos == some (.sec n)

def Plant.someCartExpected (p : Plant) (n : Nat) : Bool := p.traffic.carts.any fun c => c.expectedIn n

/-- A section becomes BLOCKED and SECTION_BLOCKED is sent; it leaves the held list of the cart that held it, and the
sections of that list ahead of it are released (R66, R67, R71, R86). -/
def Plant.blockSection (p : Plant) (n cause : Nat) : Plant :=
  let holder := (p.section? n).bind (·.state.holder)
  let p := p.modSection n fun s => { s with state := .blocked, level := .stop }
  let p :=
    match holder.bind p.cart? with
    | some c =>
      if c.held.contains n then
        let behind := c.held.takeWhile (· != n)
        (p.modCart c.num fun c => { c with held := behind }).releaseSections c.num (c.held.drop (behind.length + 1))
      else p
    | none => p
  p.event (.sectionBlocked n cause)

def Plant.claimStop (p : Plant) (x cart : Nat) : Plant := p.modStop x fun s => { s with claim := some cart }

/-- A cart's claim for a leg ends: the stop is then claimed by the cart standing there, if any (R64). -/
def Plant.unclaim (p : Plant) (x cart : Nat) : Plant :=
  p.modStop x fun s => if s.claim = some cart then { s with claim := s.cart } else s

def Plant.unclaimLeg (p : Plant) (cart : Nat) : Option Leg → Plant
  | none => p
  | some l => p.unclaim l.stop cart

/-- A cart stands at a stop: the stop records it and is claimed by it unless another cart claims it (R64). -/
def Plant.standAt (p : Plant) (cart x : Nat) : Plant :=
  (p.modStop x fun s => { s with cart := some cart, claim := some (s.claim.getD cart) }).modCart cart fun c =>
    { c with pos := some (.stop x) }

/-- One of the cart's legs ends at the stop. -/
def Cart.boundFor (c : Cart) (x : Nat) : Bool := c.leg.any (·.stop == x) || c.queued.any (·.stop == x)

/-- A stop loses a cart, and its claim unless the cart has a new leg that ends there again (R64, R75). -/
def Plant.leaveStop (p : Plant) (cart x : Nat) : Plant :=
  let back := (p.cart? cart).any (·.boundFor x)
  p.modStop x fun s =>
    if s.cart = some cart then
      { s with cart := none, claim := if s.claim = some cart ∧ back = false then none else s.claim }
    else s

/-- A cart found somewhere else no longer stands at the stops that recorded it. -/
def Plant.leaveOtherStops (p : Plant) (cart : Nat) (here : Option Nat) : Plant :=
  forEach (p.traffic.stops.filter fun s => s.cart == some cart && some s.num != here)
    (fun p s => p.leaveStop cart s.num) p

/-- The stop a cart stands at by its recorded position. -/
def Cart.atStop (c : Cart) : Option Nat :=
  match c.pos with
  | some (.stop x) => some x
  | some (.sec _) => none
  | none => none

/-- A cart's ring section: its position if that is a section, otherwise the section of its stop (R73). -/
def Plant.ringSection (p : Plant) (c : Cart) : Option Nat :=
  match c.pos with
  | some (.sec n) => some n
  | some (.stop x) => p.stopSec x
  | none => none

/-! ### Requests and grants (R68, R69) -/

/-- The cart occupies the section of its destination and that stop's point is SPUR for it (R70). With the stop's module lost it
is not turned in: its level then is not the CREEP of R70 but that of what it holds, HELD at the end of it, as R86 and R101 say
(`Plant.cartLevel`; DESIGN CHOICE, log 33). -/
def Plant.turningIn (p : Plant) (c : Cart) (dest : Nat) : Bool :=
  match p.stopSec dest, p.stop? dest with
  | some d, some s =>
    c.held.head? == some d && s.point == .arrive c.num &&
      (match p.section? d with
       | some r => r.state == .occupied c.num
       | none => false)
  | _, _ => false

/-- The section a cart asks for: the section of the stop it starts from, then the sections that follow the last in its
held list, at most three in all and not beyond the section where it turns in on this pass (R68, R75). A starting cart asks for its own
stop's section also while its destination's module is lost: R68 puts that condition on the sections after the last it holds (DESIGN
CHOICE, log 52). -/
def Plant.wants (p : Plant) (c : Cart) : Option Nat :=
  if c.state = .starting ∨ c.state = .running ∨ c.state = .held then
    match c.leg with
    | none => none
    | some leg =>
      match c.held.getLast? with
      | none => if c.state = .starting then c.atStop.bind p.stopSec else none
      | some last =>
        if 3 ≤ c.held.length ∨ p.stopLost leg.stop = true then none
        else if p.stopSec leg.stop = some last ∧ (2 ≤ c.held.length ∨ p.turningIn c leg.stop = true) then none
        else some (ringNext p.ringSize last)
  else none

/-- Requests that meet a FREE section: the cart and the section. -/
def Plant.grantable (p : Plant) : List (Cart × Nat) :=
  p.traffic.carts.filterMap fun c =>
    match p.wants c with
    | some n =>
      match p.section? n with
      | some s => if s.state = .free then some (c, n) else none
      | none => none
    | none => none

/-- A section is granted: RESERVED, at the end of the held list; a starting cart's own section sets its stop's point to
SPUR, turns the start warning on and begins the start wait; the destination's section sets the destination's point when
the cart will enter it from the section behind (R65, R69, R75). -/
def Plant.grant (p : Plant) (c : Cart) (n : Nat) : Plant :=
  let p := p.modSection n fun s => { s with state := .reserved c.num }
  if c.held.isEmpty then
    match c.atStop with
    | some x =>
      ((p.modCart c.num fun c => { c with held := [n], startWait := some (p.now + Config.startWait), startsFrom := some x }).setPoint x
        (.depart c.num)).modStop x fun s => { s with warning := true }
    | none => p.modCart c.num fun c => { c with held := [n] }
  else
    let p := p.modCart c.num fun c => { c with held := c.held ++ [n] }
    match c.leg with
    | some leg => if p.stopSec leg.stop = some n then p.setPoint leg.stop (.arrive c.num) else p
    | none => p

/-- One judgement of the arbiter: a ring cart before a starting one, then the lower cart number (R69). Where one event has freed
several sections, R69 does not say which of them is judged first: all requests that meet a FREE section are judged together, so
a ring cart granted the first may go on to the next before a starting cart that alone waited there (DESIGN CHOICE, log 75). -/
def Plant.arbiterRound (p : Plant) : Option Plant :=
  (argMin (fun (cn : Cart × Nat) => [cn.1.held.isEmpty.toNat, cn.1.num]) p.grantable).map fun cn => p.grant cn.1 cn.2

/-- The arbiter grants until no waiting request meets a FREE section; four carts hold at most three sections each. -/
def Plant.arbitrate (p : Plant) : Plant := rounds Plant.arbiterRound 16 p

/-! ### Drive levels (R70) -/

/-- The level of a held section. A cart that would turn in at a stop whose module is lost is not moved on (R86, R101,
log 33). -/
def Plant.cartLevel (p : Plant) (c : Cart) : DriveLevel :=
  if c.state = .running ∨ c.state = .held then
    match c.leg with
    | some leg =>
      if p.turningIn c leg.stop = true ∧ p.stopLost leg.stop = false then .creep
      else if 3 ≤ c.held.length then .run
      else if c.held.length = 2 then .creep
      else .stop
    | none =>
      if 3 ≤ c.held.length then .run else if c.held.length = 2 then .creep else .stop
  else .stop

/-- RUNNING or HELD by the level; the transit timer starts on entry to RUNNING and stops on entry to HELD (R70, R78). -/
def Plant.settleCart (p : Plant) (c : Cart) : Plant :=
  if c.state = .running ∨ c.state = .held then
    if p.cartLevel c = .stop then p.modCart c.num fun c => { c with state := .held, transit := none }
    else if c.state = .held then
      p.modCart c.num fun c => { c with state := .running, transit := some (p.now + Config.transitWait) }
    else p
  else p

/-- A section at its holder's level (R66, R70). -/
def Plant.withLevel (p : Plant) (s : Section) : Section :=
  match s.state.holder.bind p.cart? with
  | some c => { s with level := p.cartLevel c }
  | none => { s with level := .stop }

/-- Every held section takes its cart's level; every other section is at STOP (R66, R70). -/
def Plant.setLevels (p : Plant) : Plant :=
  { p with traffic := { p.traffic with sections := p.traffic.sections.map p.withLevel } }

def Plant.settleLevels (p : Plant) : Plant :=
  (forEach p.traffic.carts (fun p c => p.settleCart c) p).setLevels

/-! ### Legs (R74 to R77) -/

inductive LegRefusal where
  | cartUnavailable | noStop | stopTaken | stopLost
deriving DecidableEq, Repr

/-- Why a leg is refused, if it is (R74). -/
def Plant.legRefusal (p : Plant) (c : Cart) (dest : Nat) : Option LegRefusal :=
  if c.state = .fault ∨ c.state = .manual then some .cartUnavailable
  else
    match p.stopCfg dest, p.stop? dest with
    | some cfg, some s =>
      if s.claim ≠ none ∧ s.claim ≠ some c.num then some .stopTaken
      else if p.stopLost dest then some .stopLost
      else if cfg.kind = .park ∧ cfg.extra ≠ c.num then some .stopTaken
      else
        match c.atStop with
        | some x =>
          if (c.state = .parked ∨ c.state = .idle) ∧ p.stopLost x = true then some .stopLost else none
        | none => none
    | _, _ => some .noStop

/-- A leg given to a STARTING, RUNNING or HELD cart replaces its current leg (R77). A cart that occupies the old destination's
section while that stop's point is not SPUR for it, and so goes round the ring, is under neither case of R77: the model takes it as
case 1 (DESIGN CHOICE, log 51). -/
def Plant.replaceLeg (p : Plant) (c : Cart) (leg : Leg) : Plant :=
  match c.leg with
  | none => (p.claimStop leg.stop c.num).modCart c.num fun c => { c with leg := some leg }
  | some old =>
    if old.stop = leg.stop then
      (p.unclaimLeg c.num (c.queued.filter (·.stop != leg.stop))).modCart c.num fun c =>
        { c with leg := some leg, queued := none }
    else if p.turningIn c old.stop then
      -- case 2: the point cannot be moved; the new leg is kept until the arrival
      ((p.unclaimLeg c.num (c.queued.filter (·.stop != leg.stop))).claimStop leg.stop c.num).modCart c.num fun c =>
        { c with queued := some leg }
    else
      -- case 1: the old destination's point, if set for the cart, goes back to RING
      let p :=
        match p.stop? old.stop with
        | some s => if s.point = Point.arrive c.num then p.setPoint old.stop .ring else p
        | none => p
      let p := ((p.unclaim old.stop c.num).claimStop leg.stop c.num).modCart c.num fun c =>
        { c with leg := some leg, queued := none }
      match p.stopSec leg.stop with
      | some d =>
        let behind := c.held.takeWhile (· != d)
        if 1 ≤ behind.length ∧ behind.length < c.held.length then
          let keep := behind.length + 1
          (((p.modCart c.num fun c => { c with held := c.held.take keep }).releaseSections c.num
            (c.held.drop keep)).setPoint leg.stop (.arrive c.num))
        else p
      | none => p

/-- An accepted leg (R74). R93's arrival at once at the stop where the cart stands is given to a PARKED or IDLE cart, R74's row. A
free cart still STARTING on its park leg there has its leg replaced, and goes once round the ring (DESIGN CHOICE, log 60). -/
def Plant.acceptLeg (p : Plant) (c : Cart) (leg : Leg) : Plant :=
  if c.state = .parked ∨ c.state = .idle then
    if c.atStop = some leg.stop then p.modCart c.num fun c => { c with state := .idle, leg := none }
    else (p.claimStop leg.stop c.num).modCart c.num fun c => { c with state := .starting, leg := some leg }
  else if c.state = .transfer then
    ((p.unclaimLeg c.num (c.queued.filter (·.stop != leg.stop))).claimStop leg.stop c.num).modCart c.num fun c =>
      { c with queued := some leg }
  else p.replaceLeg c leg

/-- Give a cart a leg; a refused leg leaves its legs as they were (R74). The answer says whether it was accepted. -/
def Plant.giveLeg (p : Plant) (cart : Nat) (leg : Leg) : Plant × Bool :=
  match p.cart? cart with
  | none => (p, false)
  | some c =>
    match p.legRefusal c leg.stop with
    | some _ => (p, false)
    | none => (p.acceptLeg c leg, true)

/-- The leg to the cart's PARK stop (R72). -/
def Plant.giveParkLeg (p : Plant) (cart : Nat) : Plant :=
  match p.parkStop cart with
  | some x => (p.giveLeg cart { stop := x, task := none }).1
  | none => p

/-- The departure of a cart with a current leg is not yet confirmed: it still stands at its stop (R75). -/
def Cart.notDeparted (c : Cart) : Bool :=
  c.state == .starting || (c.state == .held && c.atStop.isSome)

/-- A cart's start warning goes off (R75): that of the stop whose start wait it is in, or else of the stop where it stands. A cart
read in a section of its held list during its start wait has its position there already (R67), and it is still that stop's warning
(the model's field `startsFrom`, log 63). -/
def Plant.warningOff (p : Plant) (c : Cart) : Plant :=
  match c.startsFrom.or c.atStop with
  | some x => p.modStop x fun s => { s with warning := false }
  | none => p

/-- IDLE, or PARKED at the cart's own PARK stop with no task (R72, R75). -/
def Plant.restState (p : Plant) (c : Cart) : CartState :=
  if c.atStop.isSome ∧ c.atStop = p.parkStop c.num ∧ c.task = none then .parked else .idle

/-- A cancel (R75, R81). The park leg of a departed cart may be refused with its PARK stop's module lost, or only kept (R77); either
way the cart is free after it (`Plant.isFree`). A cart STARTING whose position is already a section of its held list (R67) is IDLE
there, its position left (DESIGN CHOICE, log 63). -/
def Plant.cancel (p : Plant) (cart : Nat) : Plant :=
  match p.cart? cart with
  | none => p
  | some c =>
    if c.notDeparted then
      let p := p.releaseSections cart c.held
      let p := (p.unclaimLeg cart c.leg).unclaimLeg cart c.queued
      let p := p.warningOff c
      p.modCart cart fun c =>
        { c with state := p.restState c, leg := none, queued := none, held := [], startWait := none, startsFrom := none,
                 transit := none }
    else if c.state = .transfer then
      (p.unclaimLeg cart c.queued).modCart cart fun c => { c with queued := none }
    else if c.state = .running ∨ c.state = .held then p.giveParkLeg cart
    else p

/-! ### Free carts (R73) -/

def Leg.isPark (p : Plant) (cart : Nat) (l : Leg) : Bool := p.parkStop cart == some l.stop

/-- The cart's work is done and its last accepted leg, kept, queued or current, is its park leg, or still serves a task that the
cart no longer holds. -/
def Plant.releasedLeg (p : Plant) (c : Cart) : Bool :=
  match c.queued.or c.leg with
  | some l => l.isPark p c.num || l.task.isSome
  | none => false

/-- A free cart (R73; R85 and R100 keep a cart with a pending item or an unrecorded load out). A cart with no task that is on its
way is free on its park leg; also while it turns in on its old leg with the park leg kept (R77), since R101 to R103 offer it as free
at once; and also where the park leg of its cancel was refused (R74), so that it goes on on its old leg (DESIGN CHOICE, log 53). -/
def Plant.isFree (p : Plant) (c : Cart) : Bool :=
  c.task.isNone && c.pending.isNone && !c.noRecord &&
    (match c.atStop with
     | some x => !p.stopLost x
     | none => true) &&
    (match c.state with
     | .parked => true
     | .idle => true
     | .starting | .running | .held => p.releasedLeg c
     | .transfer => false
     | .fault => false
     | .manual => false)

def Plant.freeCarts (p : Plant) : List Cart := p.traffic.carts.filter p.isFree

/-- A free cart left IDLE at a stop other than its PARK stop with no leg is given its park leg (R73, R93). A cart found in
a section by the survey asks again for a park leg that was refused (R87, log 16). An IDLE cart that is not free, with a pending
item or loaded with no record, stays IDLE where it stands, at its own PARK stop too (DESIGN CHOICE, log 45). -/
def Plant.parkFreeCarts (p : Plant) : Plant :=
  forEach p.traffic.carts
    (fun p c =>
      if p.isFree c = true ∧ c.state = .idle ∧ c.leg = none then
        if c.atStop = p.parkStop c.num then p.modCart c.num fun c => { c with state := .parked }
        else p.giveParkLeg c.num
      else if c.state = .held ∧ c.leg = none ∧ c.task = none then p.giveParkLeg c.num
      else p) p

end Sys2Proof.Machine
end

