-- ==== Sys2Proof/Machine/Tasks.lean ====
section
/-!
DEFINITION. The task queue (R88 to R91), the choice of a slot (R23 to R29), tasks that fail, finish or are removed
(R96, R102 to R104), pending items (R38, R62, R100), and the deletion of a roll record (R20), which may fail a task.
-/
namespace Sys2Proof.Machine

/-! ### The queue -/

/-- The stop a task fetches its roll from; for an UNLOAD the STAND stop; none for a task that starts on a cart. -/
def Plant.fromStop (p : Plant) (t : Task) : Option Nat :=
  match t.src with
  | .stop n => some n
  | .arm s _ => (p.standCfg s).map (·.standStop)
  | .cart _ => none

/-- Queue order: class, then urgency, then age; the queue is kept in order of creation (R91). -/
def Task.key (t : Task) : List Nat := [t.cls, t.urgency]
def Plant.queueOrder (p : Plant) : List Task := sortBy Task.key p.sched.queue

def Plant.inTask (p : Plant) (h : Handle) : Bool := p.sched.queue.any (·.roll == h)

/-- The next task number, passing over numbers held in the queue; 255 is followed by 1 (R88). -/
def taskSucc (n : Nat) : Nat := if n ≥ 255 then 1 else n + 1
def freeTaskNumber (q : List Task) : Nat → Nat → Nat
  | 0, n => n
  | k + 1, n => if q.any (·.num == n) then freeTaskNumber q k (taskSucc n) else n

/-- The target arm of a FEED_MOUNT: the arm not in RUN; with no RUN arm, A unless A holds a roll and B does not (R97). -/
def Stand.targetArm (s : Stand) : Arm :=
  match s.runArm with
  | some m => m.other
  | none => if s.armA.state ≠ .empty ∧ s.armB.state = .empty then .b else .a

/-- An UNLOAD is class 0 while a FEED_MOUNT for its stand is in the queue, otherwise class 1 (R89). -/
def reclass (q : List Task) (t : Task) : Task :=
  if t.kind = .unload then
    { t with cls := if q.any fun m => m.kind == .feedMount && m.stand == t.stand then 0 else 1 }
  else t

def Plant.refreshClasses (p : Plant) : Plant :=
  { p with sched := { p.sched with queue := p.sched.queue.map (reclass p.sched.queue) } }

/-- A request for a task (R90). -/
structure TaskReq where
  kind : TaskKind
  roll : Handle
  src : Source
  stand : Option Nat
  link : Option Nat
deriving DecidableEq, Repr

inductive TaskRefusal where
  | rollGone | inTask | full
deriving DecidableEq, Repr

/-- The to stop a kind is created with (R89): STOW and UNLOAD have theirs chosen at assignment. -/
def Plant.createdTo (p : Plant) (r : TaskReq) : Option Nat :=
  match r.kind with
  | .feedPrep => (r.stand.bind p.standCfg).map (·.prepStop)
  | .feedMount => (r.stand.bind p.standCfg).map (·.standStop)
  | .unload => none
  | .ship => (r.link.bind p.linkCfg).map (·.outStop)
  | .stow => none
  | .reject => p.scrapStop

def TaskKind.cls : TaskKind → Nat
  | .feedMount => 0
  | .feedPrep => 1
  | .unload => 1
  | .ship => 1
  | .stow => 2
  | .reject => 2

/-- The urgency at creation: the stand's time to splice for feed tasks, 65,535 otherwise (R90). -/
def Plant.createdUrgency (p : Plant) (r : TaskReq) : Nat :=
  match r.kind, r.stand.bind p.stand? with
  | .feedPrep, some s => s.timeToSplice
  | .feedMount, some s => s.timeToSplice
  | _, _ => Config.noForecast

def Plant.newTask (p : Plant) (r : TaskReq) (num : Nat) : Task :=
  { num := num, kind := r.kind, cls := r.kind.cls, roll := r.roll, src := r.src, dest := p.createdTo r,
    arm := if r.kind = .feedMount then (r.stand.bind p.stand?).map (·.targetArm) else none,
    stand := r.stand, link := r.link, urgency := p.createdUrgency r, cart := none, suspensions := 0, created := p.now,
    noSlot := false, state := .waiting, waitsFor := none }

/-- A block asks for a task: refused ROLL_GONE, IN_TASK or FULL, or created WAITING (R90). -/
def Plant.createTask (p : Plant) (r : TaskReq) : Plant × Option TaskRefusal :=
  if (p.roll? r.roll).isNone then (p, some .rollGone)
  else if p.inTask r.roll then (p, some .inTask)
  else if Config.taskCap ≤ p.sched.queue.length then
    if p.sched.fullSent then (p, some .full)
    else (({ p with sched := { p.sched with fullSent := true } }).event (.taskQueueFull r.kind), some .full)
  else
    let num := freeTaskNumber p.sched.queue 255 p.sched.next
    (({ p with sched := { p.sched with queue := p.sched.queue ++ [p.newTask r num], next := taskSucc num } }).refreshClasses,
      none)

/-- A task leaves the queue; the queue is then below 16 (R88, R90). -/
def Plant.removeTask (p : Plant) (num : Nat) : Plant :=
  ({ p with sched := { p.sched with queue := p.sched.queue.filter (·.num != num), fullSent := false } }).refreshClasses

/-! ### Slots (R23 to R29) -/

def Plant.slotBound (p : Plant) (x : Nat) : Bool :=
  p.sched.queue.any fun t => (t.kind == .stow || t.kind == .unload) && t.dest == some x

/-- HOLDING: a record at the slot, or a roll that its sensor shows. A slot that shows a carted roll with a record, of a transfer
that a cart in FAULT or MANUAL there has not ended, counts too, though R24 says a roll that has no record (DESIGN CHOICE, log 56). -/
def Plant.slotHolding (p : Plant) (x : Nat) : Bool :=
  match p.stop? x with
  | some s => s.roll.isSome || p.sensor x
  | none => false

/-- EMPTY: neither HOLDING nor INCOMING (R24). -/
def Plant.slotEmpty (p : Plant) (x : Nat) : Bool := !p.slotHolding x && !p.slotBound x

/-- The EMPTY, available slots in increasing stop number (R24, R26). -/
def Plant.openSlots (p : Plant) : List StopCfg :=
  p.stopCfgs.filter fun c => c.kind == .slot && p.slotEmpty c.num && !p.stopLost c.num

/-- The lowest-numbered open slot in the lane of the roll's grade, or else in any lane (R26). -/
def Plant.chooseSlot (p : Plant) (h : Handle) : Option Nat :=
  let lane := (((p.roll? h).bind (·.grade)).bind p.gradeCfg).map (·.lane)
  let open_ := p.openSlots
  match lane.bind fun l => open_.find? (·.extra == l) with
  | some c => some c.num
  | none => open_.head?.map (·.num)

/-- Where an UNLOAD takes a butt: SCRAP below the minimum return length, with no grade or with no slot (R27). -/
def Plant.unloadChoice (p : Plant) (h : Handle) : Option Nat :=
  match p.roll? h with
  | some r =>
    match r.grade.bind p.gradeCfg with
    | some g =>
      if p.storedRemaining r < g.minReturn then p.scrapStop
      else
        match p.chooseSlot h with
        | some x => some x
        | none => p.scrapStop
    | none => p.scrapStop
  | none => p.scrapStop

/-- A STOW sets its no slot flag; STORAGE_FULL is sent if no other STOW has it set (R28). -/
def Plant.setNoSlot (p : Plant) (num : Nat) : Plant :=
  let others := p.sched.queue.any fun t => t.num != num && t.kind == .stow && t.noSlot
  let p := p.modTask num fun t => { t with noSlot := true, dest := none }
  if others then p else p.event .storageFull

/-- A task returns to WAITING: its cart holds it no longer and a slot bound to it is released (R25, R28, R94, R98). -/
def Plant.backToWaiting (p : Plant) (num : Nat) : Plant :=
  match p.task? num with
  | none => p
  | some t =>
    let p := p.modTask num fun t =>
      { t with state := .waiting, cart := none,
               dest := if t.kind = .stow ∨ t.kind = .unload then none else t.dest }
    match t.cart with
    | some c => p.modCart c fun c => if c.task = some num then { c with task := none } else c
    | none => p

/-- The carry leg: a leg to the task's to stop (R94, R95). -/
def Plant.giveCarryLeg (p : Plant) (num : Nat) : Plant :=
  match p.task? num with
  | some t =>
    match t.cart, t.dest with
    | some c, some y => (p.giveLeg c { stop := y, task := some num }).1
    | _, _ => p
  | none => p

/-- When a slot opens, the no slot flags are cleared, and a loaded STOW chooses before any other task is assigned. -/
def Plant.slotRound (p : Plant) : Option Plant :=
  if p.openSlots.isEmpty then none
  else if p.sched.queue.any (·.noSlot) then
    let waiting := p.queueOrder.filter fun t => t.kind == .stow && t.noSlot && t.state != .waiting
    let p := { p with sched := { p.sched with queue := p.sched.queue.map fun t => { t with noSlot := false } } }
    some (forEach waiting (fun p t =>
      match p.chooseSlot t.roll with
      | some x => (p.modTask t.num fun t => { t with dest := some x }).giveCarryLeg t.num
      | none => p.setNoSlot t.num) p)
  else none

/-- Loaded STOWs waiting for a slot choose first, wherever a slot is about to be chosen (R28, R29). -/
def Plant.serveSlots (p : Plant) : Plant := p.slotRound.getD p

/-- The slot bound to a task has become unusable: the store controller chooses again (R29). A cart whose transfer is in
progress counts as loaded, since a transfer is not stopped (log 29). A loaded STOW with no slot whose park leg is refused, its PARK
stop being lost, is not given that leg again: the cart keeps its old leg until the task has a slot (DESIGN CHOICE, log 68). -/
def Plant.rechoose (p : Plant) (num : Nat) : Plant :=
  match p.task? num with
  | none => p
  | some t =>
    let loaded := t.state = .loading ∨ t.state = .carrying
    let p := (p.modTask num fun t => { t with dest := none }).serveSlots
    match t.kind with
    | .unload =>
      let p := p.modTask num fun t => { t with dest := p.unloadChoice t.roll }
      if loaded then p.giveCarryLeg num else p
    | .stow =>
      match p.chooseSlot t.roll with
      | some x =>
        let p := p.modTask num fun t => { t with dest := some x }
        if loaded then p.giveCarryLeg num else p
      | none =>
        let p := p.setNoSlot num
        if loaded then
          match t.cart with
          | some c => p.giveParkLeg c
          | none => p
        else
          let p := p.backToWaiting num
          match t.cart with
          | some c => p.cancel c
          | none => p
    | .feedPrep => p
    | .feedMount => p
    | .ship => p
    | .reject => p

/-- Tasks with a slot as their to stop that are on their way to it. -/
def Plant.boundOnTheWay (p : Plant) (x : Nat) : List Task :=
  p.queueOrder.filter fun t =>
    (t.kind == .stow || t.kind == .unload) && t.dest == some x &&
      (t.state == .assigned || t.state == .loading || t.state == .carrying)

def Plant.rechooseBound (p : Plant) (x : Nat) : Plant :=
  forEach (p.boundOnTheWay x) (fun p t => p.rechoose t.num) p

/-! ### Tasks asked for at a place, and pending items -/

/-- What became of a request: created, refused FULL, or refused otherwise. -/
inductive Asked where
  | created | full | other
deriving DecidableEq, Repr

def askedOf : Option TaskRefusal → Asked
  | none => .created
  | some .full => .full
  | some .rollGone => .other
  | some .inTask => .other

/-- The stand of a roll's STAND claim. -/
def Roll.claimStand (r : Roll) : Option Nat :=
  match r.claim with
  | .stand s => some s
  | .none => none
  | .hold _ _ => none
  | .ship _ => none

/-- Ask for a task of a kind for the record PLACED at a stop. -/
def Plant.askFromStop (p : Plant) (x : Nat) (k : TaskKind) : Plant × Asked :=
  match (p.stop? x).bind (·.roll) with
  | some h =>
    let stand := if k = .feedMount ∨ k = .feedPrep then (p.roll? h).bind (·.claimStand) else none
    let (p, r) := p.createTask { kind := k, roll := h, src := .stop x, stand := stand, link := none }
    (p, askedOf r)
  | none => (p, .other)

/-- A task asked for at a stop: where the queue is full the stop keeps it as its pending item (R35, R37, R38, R47,
R62, R99, R100, R104). -/
def Plant.askOrPend (p : Plant) (x : Nat) (k : TaskKind) : Plant :=
  match p.askFromStop x k with
  | (p, .created) => p.modStop x fun s => { s with pending := none }
  | (p, .full) => p.modStop x fun s => { s with pending := some k }
  | (p, .other) => p

/-- The roll on an arm as a record, if it has one. -/
def RollRef.handle : RollRef → Option Handle
  | .record h => some h
  | .unrecorded => Option.none
  | .none => Option.none

/-- An UNLOAD for the butt on an arm (R146, R104). -/
def Plant.askUnload (p : Plant) (s : Nat) (m : Arm) : Plant × Asked :=
  match (p.arm? s m).bind (·.roll.handle) with
  | some h =>
    let (p, r) := p.createTask { kind := .unload, roll := h, src := .arm s m, stand := some s, link := none }
    (p, askedOf r)
  | none => (p, .other)

/-- Refused FULL, the UNLOAD becomes the stand's pending item (R97, R100). -/
def Plant.unloadOrPend (p : Plant) (s : Nat) (m : Arm) : Plant :=
  match p.askUnload s m with
  | (p, .created) => p.modStand s fun s => { s with pendingUnload := none }
  | (p, .full) => p.modStand s fun s => { s with pendingUnload := some m }
  | (p, .other) => p

/-- A STOW, or a REJECT for a rejected roll, for the roll already on a cart (R85, R99, R104). It goes straight to
CARRYING, and a PARKED cart holding it is IDLE (R72); loaded STOWs already waiting choose before it; with no slot the cart
takes its park leg and the task waits with its no slot flag set (R29). -/
def Plant.askOnCart (p : Plant) (cart : Nat) : Plant × Asked :=
  let p := p.serveSlots
  match (p.cart? cart).bind (·.load) with
  | none => (p, .other)
  | some h =>
    let rejected := match p.roll? h with
      | some r => r.rejected
      | none => false
    let k : TaskKind := if rejected then .reject else .stow
    let num := freeTaskNumber p.sched.queue 255 p.sched.next
    match p.createTask { kind := k, roll := h, src := .cart cart, stand := none, link := none } with
    | (p, some r) => (p, askedOf (some r))
    | (p, none) =>
      let p := p.modTask num fun t => { t with state := .carrying, cart := some cart }
      let p := p.modCart cart fun c =>
        { c with task := some num, pending := none, state := if c.state = .parked then .idle else c.state }
      if k = .reject then (p.giveCarryLeg num, .created)
      else
        match p.chooseSlot h with
        | some x => ((p.modTask num fun t => { t with dest := some x }).giveCarryLeg num, .created)
        | none => ((p.setNoSlot num).giveParkLeg cart, .created)

/-- The task of `askOnCart`, or a pending item where the queue is full (R99, R100). Refused IN_TASK, of which no rule says what
follows, it leaves the cart loaded, with no task and free (DESIGN CHOICE, log 46). -/
def Plant.onCartOrPend (p : Plant) (cart : Nat) : Plant :=
  let rejected := match ((p.cart? cart).bind (·.load)).bind p.roll? with
    | some r => r.rejected
    | none => false
  match p.askOnCart cart with
  | (p, .created) => p
  | (p, .full) => p.modCart cart fun c => { c with pending := some (if rejected then .reject else .stow) }
  | (p, .other) => p

def Plant.queueFull (p : Plant) : Bool := Config.taskCap ≤ p.sched.queue.length

/-- The scheduler's own pending items, while the queue has room: UNLOADs by stand, cart items by cart, DOCK STOWs by
stop (R100). A cart's item is created although the cart has since entered FAULT or MANUAL: the task is CARRYING on that cart, and
its leg is refused until the cart is back in AUTO (DESIGN CHOICE, log 62). -/
def Plant.offerOwn (p : Plant) : Plant :=
  let p := forEach (oneTo 4) (fun p n =>
    match (p.stand? n).bind (·.pendingUnload) with
    | some m => if p.queueFull then p else p.unloadOrPend n m
    | none => p) p
  let p := forEach (oneTo 4) (fun p n =>
    match (p.cart? n).bind (·.pending) with
    | some _ => if p.queueFull then p else p.onCartOrPend n
    | none => p) p
  forEach p.stopCfgs (fun p c =>
    match (p.stop? c.num).bind (·.pending) with
    | some k => if c.kind ≠ .dock ∨ p.queueFull = true then p else p.askOrPend c.num k
    | none => p) p

/-- The pending items of the stops of some kinds, in increasing stop number, until one is refused for a full queue
(R38, R62). -/
def Plant.offerStops (p : Plant) (kinds : List StopKind) : Plant :=
  (forEach p.stopCfgs (fun (pb : Plant × Bool) c =>
    if pb.2 then pb
    else
      match (pb.1.stop? c.num).bind (·.pending) with
      | some k =>
        if kinds.contains c.kind then
          match pb.1.askFromStop c.num k with
          | (p, .created) => (p.modStop c.num fun s => { s with pending := none }, false)
          | (p, .full) => (p, true)
          | (p, .other) => (p, false)
        else pb
      | none => pb) (p, false)).1

/-- Whenever a task leaves the queue: the scheduler's own items, then the store controller's offers, then the supply
unit's (R38, R62, R100; the last two in an order the manual leaves open, log 26). -/
def Plant.offerPending (p : Plant) : Plant := (p.offerOwn.offerStops [.prep]).offerStops [.inn, .out]

/-! ### The giver's shipment and its task (R58) -/

/-- The outbound record of a link becomes IDLE; its conveyor is off (R39). -/
def Plant.outIdle (p : Plant) (link : Nat) : Plant := p.modLink link fun l => { l with out := Outbound.idle }

/-- A CARRYING shipment is lost: the SHIP claim is released, GONE is queued, the hold is freed, the record is IDLE. -/
def Plant.abandonCarrying (p : Plant) (link : Nat) (h : Handle) (rollNo : Nat) : Plant :=
  match p.link? link with
  | some l =>
    if l.out.state = .carrying ∧ l.out.roll = some h then
      (((p.release h (.ship link)).send l.out.caller (.gone l.out.callNo rollNo)).dropHolds (·.roll == h)).outIdle link
    else p
  | none => p

/-! ### Failure, removal and finish (R96, R102 to R104) -/

inductive TaskFailure where
  | cartFault | cartManual | notReady | rollGone
deriving DecidableEq, Repr

/-- The cause code of TASK_FAILED; a CART_FAULT failure sends no TASK_FAILED (R103). -/
def TaskFailure.code : TaskFailure → Option Nat
  | .cartFault => none
  | .cartManual => some Reason.taskCartManual
  | .notReady => some Reason.taskNotReady
  | .rollGone => some Reason.taskRollGone

/-- After a failure the roll is dealt with according to where it is (R104). -/
def Plant.recover (p : Plant) (t : Task) : Plant :=
  match p.roll? t.roll with
  | none => p
  | some r =>
    match r.state, r.loc with
    | .placed, .stop x =>
      match t.kind with
      | .feedMount => if r.prepared then p.askOrPend x .stow else p
      | .stow => p.askOrPend x .stow
      | .reject => p.askOrPend x .reject
      | .feedPrep => p
      | .ship => p
      | .unload => p
    | .butt, .arm s m => if t.kind = .unload then p.unloadOrPend s m else p
    | .carried, .cart c =>
      match p.cart? c with
      | some cart => if cart.state = .fault ∨ cart.state = .manual then p else p.onCartOrPend c
      | none => p
    | _, _ => p

/-- The cart of a task that failed or was removed: it holds the task no longer, and is given a cancel unless it is in
FAULT or MANUAL or holds the roll (R102, R103). -/
def Plant.dropCart (p : Plant) (t : Task) : Plant :=
  match t.cart.bind p.cart? with
  | none => p
  | some c =>
    let p := p.modCart c.num fun c => { c with task := none }
    if c.state = .fault ∨ c.state = .manual ∨ c.load = some t.roll then p else p.cancel c.num

/-- A task fails (R103, R104); `rollNo` is the roll's number as it was known. -/
def Plant.failTask (p : Plant) (num : Nat) (why : TaskFailure) (rollNo : Nat) : Plant :=
  match p.task? num with
  | none => p
  | some t =>
    let p :=
      match why.code with
      | some c => p.event (.taskFailed num t.kind rollNo c)
      | none => p
    let p := p.removeTask num
    let p := if t.kind = .feedPrep ∨ t.kind = .feedMount then p.releaseStand t.roll else p
    let p :=
      match t.kind, t.link with
      | .ship, some l => p.abandonCarrying l t.roll rollNo
      | _, _ => p
    ((p.dropCart t).recover t).offerPending

/-- A task is removed without failing; its cart is cancelled (R102). -/
def Plant.dropTask (p : Plant) (num : Nat) : Plant :=
  match p.task? num with
  | none => p
  | some t => ((p.removeTask num).dropCart t).offerPending

/-! ### Deletion of a record (R20) -/

/-- The stop, cart or arm that named a record no longer does, and their pending items for it are cleared. -/
def Plant.clearPlaces (p : Plant) (h : Handle) : Plant :=
  { p with
    traffic := { p.traffic with
      stops := p.traffic.stops.map fun s =>
        { s with
          roll := if s.roll = some h then none else s.roll
          expected := if s.expected = some h then none else s.expected
          pending := if s.roll = some h then none else s.pending }
      carts := p.traffic.carts.map fun c =>
        if c.load = some h then { c with load := none, pending := none } else c }
    splice := { p.splice with
      stands := p.splice.stands.map fun s =>
        let clear (a : ArmRec) : ArmRec := if a.roll = .record h then { a with roll := .none } else a
        { s with armA := clear s.armA, armB := clear s.armB } } }

/-- The link whose outbound record is CARRYING a roll. -/
def Plant.carryingLink (p : Plant) (h : Handle) : Option LinkRec :=
  p.supply.links.find? fun l => l.out.state == .carrying && l.out.roll == some h

/-- The supply unit is told of a record deleted while a hold names it: a TAKEN hold's shipment is lost (R58), a HELD hold is freed,
whatever the record's claim was (R57). -/
def Plant.holdsEnded (p : Plant) (h : Handle) (rollNo : Nat) : Plant :=
  let p :=
    match p.carryingLink h with
    | some l => p.abandonCarrying l.num h rollNo
    | none => p
  p.dropHolds (·.roll == h)

/-- The blocks that a deleted record concerns are told: its holds end (R57, R58), and a SHIP claim's shipment (R20). A shipment
ASKING, CONVEYING or IN_TRANSIT whose roll lost its SHIP claim (R85) is not told: its own waits end it (DESIGN CHOICE, log 59). -/
def Plant.claimEnded (p : Plant) (h : Handle) (c : Claim) (rollNo : Nat) : Plant :=
  let p := p.holdsEnded h rollNo
  match c with
  | .none => p
  | .stand _ => p
  | .hold _ _ => p
  | .ship l =>
    match p.link? l with
    | some r => if r.out.roll = some h then p.outIdle l else p
    | none => p

/-- A record is deleted: freed, its location and claim end, and a task that names it fails ROLL_GONE (R20, R103). -/
def Plant.deleteRoll (p : Plant) (h : Handle) : Plant :=
  match p.roll? h with
  | none => p
  | some r =>
    let n := numOr0 r.num
    let p := ((p.freeRoll h).clearPlaces h).claimEnded h r.claim n
    match p.sched.queue.find? (·.roll == h) with
    | some t => p.failTask t.num .rollGone n
    | none => p

/-- A roll leaves a place without a transfer: its record is deleted and ROLL_LOST is sent (R18). -/
def Plant.loseRoll (p : Plant) (h : Handle) (place : Place) : Plant :=
  match p.roll? h with
  | none => p
  | some r => (p.deleteRoll h).event (.rollLost (numOr0 r.num) place)

/-! ### Arrivals and removals at stops (R4, R18, R47, R60, R99) -/

/-- The scheduler's STOW for a record PLACED unreserved at a DOCK, IN or OUT stop (R99). -/
def Plant.autoStow (p : Plant) (x : Nat) : Plant :=
  match p.stopKind x, ((p.stop? x).bind (·.roll)).bind p.roll? with
  | some k, some r =>
    if (k = .dock ∨ k = .inn ∨ k = .out) ∧ r.claim = .none then p.askOrPend x .stow else p
  | _, _ => p

/-- An EXPECTING inbound record's roll has arrived: LANDED, then a FEED_PREP or a STOW (R47). -/
def Plant.rollLands (p : Plant) (l : LinkRec) (x : Nat) (h : Handle) : Plant :=
  let p := p.send l.inb.giver (.landed l.inb.callNo (p.rollNo h))
  let p := p.modLink l.num fun l => { l with inb := Inbound.idle }
  if l.inb.claimed then
    match (p.roll? h).bind (·.claimStand) with
    | some s =>
      let (p, a) := p.askFromStop x .feedPrep
      (if a = .created then p else p.release h (.stand s)).freeCall s
    | none => p
  else p.askOrPend x .stow

/-- The link whose inbound record expects a roll at an IN stop. -/
def Plant.expectingLink (p : Plant) (h : Handle) : Option LinkRec :=
  p.supply.links.find? fun l => l.inb.expecting && l.inb.roll == some h

/-- A record is put at a stop. -/
def Plant.placeAt (p : Plant) (x : Nat) (h : Handle) : Plant := p.modStop x fun s => { s with roll := some h }

/-- A roll is sensed at a stop with no transfer in progress there (R4, R18). An IN stop's expected roll lands (R47), a
slot on the way of a task is chosen again (R25, R29). -/
def Plant.stopArrival (p : Plant) (x : Nat) : Plant :=
  match p.stop? x, p.stopKind x with
  | some s, some k =>
    if holdsRolls k = false ∨ s.roll.isSome = true then p
    else
      match s.expected with
      | some h =>
        let p := (p.modRollIn h .expected fun r => { r with state := .placed, loc := .stop x }).modStop x fun s =>
          { s with roll := some h, expected := none }
        match p.expectingLink h with
        | some l => p.rollLands l x h
        | none => p.autoStow x
      | none =>
        let p :=
          match p.createRoll (unknownRoll p.core .placed (.stop x)) with
          | some (h, p) => (p.placeAt x h).autoStow x
          | none => p.event (.tableFull 0 (.stop x))
        p.rechooseBound x
  | _, _ => p

/-- The conveyor output of a link: on while its outbound record conveys or has conveyed a roll, off while its conveyor's
module is lost (R39, R188). -/
def Plant.conveyor (p : Plant) (l : LinkRec) : Bool :=
  (l.out.state == .conveying || l.out.state == .inTransit) &&
    (match p.linkCfg l.num with
     | some c => !p.moduleLost c.convModule
     | none => false)

/-- The link whose OUT stop is `x` and whose conveyor runs (R60; with its module lost it does not, log 36). -/
def Plant.conveyingAt (p : Plant) (x : Nat) : Option LinkRec :=
  p.supply.links.find? fun l =>
    p.conveyor l &&
      (match p.linkCfg l.num with
       | some c => c.outStop == x
       | none => false)

/-- A stop's roll sensor clears with no transfer in progress there: a shipped roll while the conveyor runs (R6, R60),
otherwise a removal (R18). -/
def Plant.stopRemoval (p : Plant) (x : Nat) : Plant :=
  match p.stop? x with
  | none => p
  | some s =>
    match p.conveyingAt x with
    | some l =>
      match l.out.roll with
      | some h =>
        if l.out.state = .conveying ∧ s.roll = some h then
          ((p.modRollIn h .placed fun r => { r with state := .shipped, loc := .link l.num }).modStop x fun s =>
            { s with roll := none, pending := none }).modLink l.num fun l =>
              { l with out := { l.out with state := .inTransit } }
        else p
      | none => p
    | none =>
      match s.roll with
      | some h => p.loseRoll h (.stop x)
      | none => p

end Sys2Proof.Machine
end

