-- ==== Sys2Proof/Machine/Transport.lean ====
section
/-!
DEFINITION. Transfers at stops (R79 to R82), the end of the tasks they serve (R36, R59, R96), and carts in FAULT and
MANUAL (R83, R84).
-/
namespace Sys2Proof.Machine

/-! ### Indications (R79, R80) -/

/-- The stand of a STAND stop. -/
def Plant.standOfStop (p : Plant) (x : Nat) : Option Nat :=
  match p.stopCfg x with
  | some c => if c.kind = .stand then some c.extra else none
  | none => none

/-- What the transfer at a stop sees there: the roll sensor, or at a STAND stop the named arm's loaded input (R79). -/
def Plant.rollShown (p : Plant) (x : Nat) (arm : Option Arm) : Bool :=
  match p.standOfStop x with
  | some s =>
    match arm with
    | some m => p.armLoaded s m
    | none => false
  | none => p.sensor x

/-- A cart in FAULT or MANUAL stands at the stop. -/
def Plant.handledByHand (p : Plant) (x : Nat) : Bool :=
  match ((p.stop? x).bind (·.cart)).bind p.cart? with
  | some c => c.state == .fault || c.state == .manual
  | none => false

def Plant.transferAt (p : Plant) (x : Nat) : Bool :=
  match p.stop? x with
  | some s => s.transfer.isSome
  | none => false

/-- Changes of a stop's sensor are not arrivals or removals while a transfer is in progress there, or while a cart
stands there in FAULT or MANUAL (R79). -/
def Plant.sensorHeld (p : Plant) (x : Nat) : Bool := p.transferAt x || p.handledByHand x

/-- Whether a transfer request is accepted (R79). -/
def Plant.transferReady (p : Plant) (c : Cart) (x : Nat) (dir : TransferDir) (arm : Option Arm) : Bool :=
  c.state == .idle && c.atStop == some x && !p.stopLost x &&
    (match dir with
     | .toCart => p.rollShown x arm && !c.loadFlag
     | .toStop => !p.rollShown x arm && c.loadFlag)

/-- The task scheduler asks for a transfer; the answer says whether it was accepted or refused NOT_READY (R79). -/
def Plant.requestTransfer (p : Plant) (cart x : Nat) (dir : TransferDir) (arm : Option Arm) : Plant × Bool :=
  match p.cart? cart with
  | none => (p, false)
  | some c =>
    if p.transferReady c x dir arm then
      ((p.modStop x fun s => { s with transfer := some dir }).modCart cart fun c =>
        { c with state := .transfer, arm := arm, transfer := some (p.now + Config.transferWait) }, true)
    else (p, false)

/-! ### Arms (R124): what a transfer does to them -/

/-- An arm that becomes EMPTY: no roll, both duties 0, no pulse time, no stopped report, no D_filt; a pending UNLOAD
for it is cleared (R100, R110, R124, R127). The estimator's other figures stay as they were (DESIGN CHOICE, log 73). -/
def Plant.emptyArm (p : Plant) (s : Nat) (m : Arm) : Plant :=
  (p.modArm s m fun a =>
    { a with state := .empty, roll := .none, brake := 0, drive := 0, lastPulse := none, stopped := false,
             est := { a.est with mode := .none, dFilt := none } }).modStand s fun st =>
    { st with pendingUnload := if st.pendingUnload = some m then none else st.pendingUnload }

/-- An arm that has been loaded is MOUNTED with its brake at 1000 (R124, R127). -/
def Plant.mountArm (p : Plant) (s : Nat) (m : Arm) (r : RollRef) : Plant :=
  p.modArm s m fun a => { a with state := .mounted, roll := r, brake := 1000, drive := 0 }

/-! ### The record changes of a completed transfer (R4, R5, R80) -/

/-- Stop to cart: PLACED at x, or BUTT on the arm, becomes CARRIED; a butt becomes partial (R4, R5, R10). For a record in
another state the change is dropped, at the arm as in the roll table, so that the two agree (R3, R7). -/
def Plant.moveToCart (p : Plant) (x : Nat) (c : Cart) : Plant :=
  match p.standOfStop x, c.arm with
  | some s, some m =>
    match (p.arm? s m).bind (·.roll.handle) with
    | some h =>
      if (p.roll? h).map (·.state) = some .butt then
        ((p.modRollIn h .butt fun r => { r with state := .carried, loc := .cart c.num, part := true }).emptyArm s
          m).modCart c.num fun c => { c with load := some h }
      else p
    | none => p.emptyArm s m
  | some _, none => p
  | none, _ =>
    match (p.stop? x).bind (·.roll) with
    | some h =>
      ((p.modRollIn h .placed fun r => { r with state := .carried, loc := .cart c.num }).modStop x fun s =>
        { s with roll := none, pending := none }).modCart c.num fun c => { c with load := some h }
    | none => p

/-- Cart to stop: CARRIED becomes PLACED at x, MOUNTED on the arm, or is deleted at SCRAP; the cart's pending item goes with
its roll (R4, R5, R20, R100). -/
def Plant.moveToStop (p : Plant) (x : Nat) (c : Cart) : Plant :=
  match c.load with
  | none => p
  | some h =>
    let p := p.modCart c.num fun c => { c with load := none, pending := none }
    match p.standOfStop x, c.arm with
    | some s, some m =>
      (p.modRollIn h .carried fun r => { r with state := .mounted, loc := .arm s m }).mountArm s m (.record h)
    | some _, none => p
    | none, _ =>
      if p.stopKind x = some .scrap then p.deleteRoll h
      else (p.modRollIn h .carried fun r => { r with state := .placed, loc := .stop x }).placeAt x h

/-! ### What follows at the stop -/

/-- A prepared roll with a STAND claim that arrives at a PREP stop goes straight on (R36). -/
def Plant.prepArrival (p : Plant) (x : Nat) : Plant :=
  match ((p.stop? x).bind (·.roll)).bind p.roll? with
  | some r =>
    if p.stopKind x = some .prep ∧ r.prepared = true ∧ r.claimStand.isSome = true then p.askOrPend x .feedMount else p
  | none => p

/-- The link whose OUT stop is x and whose outbound record is CARRYING this roll. -/
def Plant.carryingTo (p : Plant) (x : Nat) (h : Handle) : Option LinkRec :=
  p.supply.links.find? fun l =>
    l.out.state == .carrying && l.out.roll == some h &&
      (match p.linkCfg l.num with
       | some c => c.outStop == x
       | none => false)

/-- A roll set down at the OUT stop of a CARRYING link: READY is queued, the hold is freed, ASKING begins (R59). -/
def Plant.shipmentPlaced (p : Plant) (x : Nat) : Plant :=
  match (p.stop? x).bind (·.roll) with
  | some h =>
    match p.carryingTo x h, p.roll? h with
    | some l, some r =>
      ((p.send l.out.caller (.shipReady l.out.callNo r.snapshot)).dropHolds (·.roll == h)).modLink l.num fun l =>
        { l with out := { l.out with state := .asking, coming := none, accept := some (p.now + Config.acceptWait) } }
    | _, _ => p
  | none => p

/-- A delivering task finishes: it leaves the queue and its cart holds no task (R96). -/
def Plant.finishTask (p : Plant) (num cart : Nat) : Plant :=
  (p.removeTask num).modCart cart fun c => { c with task := none }

/-- After a transfer the cart starts its queued leg, or is IDLE; no arm is named any more (R80, R81). -/
def Plant.afterTransfer (p : Plant) (cart : Nat) : Plant :=
  p.modCart cart fun c =>
    match c.queued with
    | some l =>
      if c.atStop = some l.stop then
        { c with state := .idle, transfer := none, arm := none, leg := none, queued := none }
      else { c with state := .starting, transfer := none, arm := none, leg := some l, queued := none }
    | none => { c with state := .idle, transfer := none, arm := none }

def Plant.completeToCart (p : Plant) (x : Nat) (c : Cart) : Plant :=
  let p := (p.modStop x fun s => { s with transfer := none }).moveToCart x c
  let p :=
    match c.task with
    | some t => p.modTask t fun k => if k.state = TaskState.loading then { k with state := .carrying } else k
    | none => p
  p.afterTransfer c.num

/-- The task finishes before the roll may be deleted, so that its own transfer onto SCRAP does not fail it (R96). The FEED_MOUNT of
R36 takes the task's place in the queue before the pending items are offered it (DESIGN CHOICE, log 26). -/
def Plant.completeToStop (p : Plant) (x : Nat) (c : Cart) : Plant :=
  let p := p.modStop x fun s => { s with transfer := none }
  let p :=
    match c.task with
    | some t => p.finishTask t c.num
    | none => p
  let p := (((p.moveToStop x c).prepArrival x).shipmentPlaced x).afterTransfer c.num
  if c.task.isSome then p.offerPending else p

/-- A transfer completes when both of its indications show the new state (R80). -/
def Plant.checkTransfer (p : Plant) (x : Nat) : Plant :=
  match p.stop? x with
  | none => p
  | some s =>
    match s.transfer, s.cart.bind p.cart? with
    | some .toCart, some c =>
      if c.state = .transfer ∧ p.rollShown x c.arm = false ∧ c.loadFlag = true then p.completeToCart x c else p
    | some .toStop, some c =>
      if c.state = .transfer ∧ p.rollShown x c.arm = true ∧ c.loadFlag = false then p.completeToStop x c else p
    | _, _ => p

/-- A change of a stop's roll sensor (R18, R60, R79, R80). A STAND stop's roll sensor is not read (R64). -/
def Plant.sensorChanged (p : Plant) (x : Nat) (on : Bool) : Plant :=
  if (p.standOfStop x).isSome then p
  else if p.transferAt x then p.checkTransfer x
  else if p.handledByHand x then p
  else if on then p.stopArrival x
  else p.stopRemoval x

/-! ### FAULT (R83) -/

def Plant.transferOff (p : Plant) (c : Cart) : Plant :=
  match c.atStop with
  | some x => p.modStop x fun s => { s with transfer := none }
  | none => p

/-- The cart's legs are dropped and their claims released, its timers stop and it takes a new state (R83, R84). -/
def Plant.dropLegs (p : Plant) (c : Cart) (st : CartState) : Plant :=
  (((p.transferOff c).unclaimLeg c.num c.leg).unclaimLeg c.num c.queued).modCart c.num fun c =>
    { c with state := st, leg := none, queued := none, startWait := none, startsFrom := none, transit := none,
             transfer := none }

/-- The roll number a task's failure reports. -/
def Plant.taskRollNo (p : Plant) (num : Nat) : Nat :=
  match p.task? num with
  | some t => p.rollNo t.roll
  | none => 0

/-- A cart enters FAULT (R83). It keeps its held sections, its load and its position. -/
def Plant.enterFault (p : Plant) (cart : Nat) (cause : FaultCause) : Plant :=
  match p.cart? cart with
  | none => p
  | some c =>
    let p := (p.dropLegs c .fault).modCart cart fun c => { c with lastFault := some cause }
    let p :=
      match c.task with
      | some t => p.failTask t .cartFault (p.taskRollNo t)
      | none => p
    p.event (.cartFault cart cause c.pos)

/-! ### MANUAL (R84) -/

/-- The held sections up to the furthest one the cart occupies: one that is OCCUPIED by it or is its position (log 18). -/
def Plant.heldUpToOccupied (p : Plant) (c : Cart) : List Nat :=
  (c.held.reverse.dropWhile fun n =>
    (p.section? n).map (·.state) != some (.occupied c.num) && c.pos != some (.sec n)).reverse

/-- On entry to MANUAL the sections ahead of the occupied one are released; that one, and any the cart still holds behind
it, is OCCUPIED and is freed once its sensor is clear, at once if it already is (R71, R84). A cart that occupies no section
releases them all (log 18). -/
def Plant.manualSections (p : Plant) (c : Cart) : Plant :=
  let kept := p.heldUpToOccupied c
  let p := p.releaseSections c.num (c.held.drop kept.length)
  let p := p.releaseSections c.num (kept.filter fun n => !p.occupied n)
  let p := forEach (kept.filter p.occupied) (fun p n => p.modSection n fun s =>
    if s.state.holder = some c.num then { s with state := .occupied c.num } else s) p
  p.modCart c.num fun k => { k with held := kept.filter p.occupied }

/-- A cart enters MANUAL, from any state (R84); CART_MANUAL is sent by the caller, after the read's position. -/
def Plant.enterManual (p : Plant) (c : Cart) : Plant :=
  let p := (p.dropLegs c .manual).manualSections c
  match c.task with
  | some t => p.failTask t .cartManual (p.taskRollNo t)
  | none => p

def Plant.cartPos (p : Plant) (cart : Nat) : Option Pos := (p.cart? cart).bind (·.pos)

/-- A cart that has moved on: an arm named by a transfer interrupted where it stood is forgotten (R85, log 19). -/
def Cart.movedTo (c : Cart) (pos : Pos) : Cart := { c with arm := if c.pos = some pos then c.arm else none, pos := some pos }

/-- A cart found at a stop: its position, and the stop's cart if it has none (R84, R76). -/
def Plant.foundAt (p : Plant) (cart x : Nat) : Plant :=
  let p := (p.leaveOtherStops cart (some x)).modCart cart fun c => c.movedTo (.stop x)
  match p.stop? x with
  | some s =>
    if s.cart = none ∨ s.cart = some cart then p.standAt cart x else p
  | none => p

def Plant.foundIn (p : Plant) (cart n : Nat) : Plant :=
  (p.leaveOtherStops cart none).modCart cart fun c => c.movedTo (.sec n)

end Sys2Proof.Machine
end

