-- ==== Sys2Proof/Machine/Schedule.lean ====
section
/-!
DEFINITION. The scheduler's work at the end of every event that touches transport (R92 to R95, R97, R98): requests for
transfers, slots for loaded STOWs, assignment, suspension, carry legs given again; then free carts park, the arbiter
grants and drive levels are worked out. Readiness is judged from the state as it is (log 7).
-/
namespace Sys2Proof.Machine

/-! ### Readiness (R92) -/

/-- The from stop is not on a lost module and holds the roll PLACED there; for an UNLOAD the butt is on its arm. -/
def Plant.sourceReady (p : Plant) (t : Task) : Bool :=
  match t.src with
  | .stop x =>
    !p.stopLost x && (p.stop? x).bind (·.roll) == some t.roll &&
      (match p.roll? t.roll with
       | some r => r.state == .placed
       | none => false)
  | .arm s m =>
    (match p.fromStop t with
     | some x => !p.stopLost x
     | none => false) &&
      (match p.arm? s m, p.roll? t.roll with
       | some a, some r => a.state == .butt && a.roll == .record t.roll && r.state == .butt
       | _, _ => false)
  | .cart _ => false

/-- The from stop is claimed by no cart, or by a free cart standing there. -/
def Plant.sourceUnclaimed (p : Plant) (t : Task) : Bool :=
  match (p.fromStop t).bind p.stop? with
  | some s =>
    match s.claim with
    | none => true
    | some c =>
      match p.cart? c with
      | some cart => p.isFree cart && cart.atStop == some s.num
      | none => false
  | none => false

/-- The conditions that a kind puts on its to stop. -/
def Plant.destReady (p : Plant) (t : Task) : Bool :=
  match t.kind with
  | .feedPrep =>
    (match t.dest with
     | some y =>
       p.stopEmpty y && !p.stopLost y &&
         !(p.sched.queue.any fun o => o.num != t.num && o.kind == .feedPrep && o.dest == some y && o.state != .waiting)
     | none => false)
  | .feedMount =>
    (match t.stand, t.arm, t.dest with
     | some s, some m, some y =>
       (match p.arm? s m with
        | some a => a.state == .empty && !p.stopLost y
        | none => false)
     | _, _, _ => false)
  | .ship =>
    (match t.dest with
     | some y => !p.stopLost y
     | none => false)
  | .reject =>
    (match t.dest with
     | some y => !p.stopLost y
     | none => false)
  | .unload => true
  | .stow => true

def Plant.isReady (p : Plant) (t : Task) : Bool :=
  t.state == .waiting && !t.noSlot && t.waitsFor.isNone && p.sourceReady t && p.sourceUnclaimed t && p.destReady t

/-- What a refused leg waits to see changed: the claim and the module state of the from stop (R94). -/
def Plant.sourceCondition (p : Plant) (t : Task) : Option Nat × Bool :=
  match p.fromStop t with
  | some x => ((p.stop? x).bind (·.claim), p.stopLost x)
  | none => (none, false)

/-! ### Assignment (R93) and suspension (R98) -/

/-- Distance and cart number (R93, steps 2 and 3); a cart with no place on the ring comes last (DESIGN
CHOICE, log 7). -/
def Plant.distanceKey (p : Plant) (x : Nat) (c : Cart) : List Nat :=
  match p.ringSection c, p.stopSec x with
  | some a, some b => [0, ringDist p.ringSize a b, c.num]
  | _, _ => [1, 0, c.num]

/-- The free cart a task takes (R93). -/
def Plant.pickCart (p : Plant) (x : Nat) : Option Cart :=
  match p.freeCarts.find? fun c => c.atStop == some x with
  | some c => some c
  | none => argMin (p.distanceKey x) p.freeCarts

/-- A task takes a cart: ASSIGNED, its to stop chosen for a STOW or an UNLOAD, the leg given; a STOW with no slot and a
refused leg return it to WAITING (R26 to R28, R93, R94). -/
def Plant.assign (p : Plant) (t : Task) (c : Cart) (x : Nat) : Plant :=
  let slot := p.chooseSlot t.roll
  if t.kind = .stow ∧ slot = none then p.setNoSlot t.num
  else
    let dest :=
      match t.kind with
      | .stow => slot
      | .unload => p.unloadChoice t.roll
      | .feedPrep => t.dest
      | .feedMount => t.dest
      | .ship => t.dest
      | .reject => t.dest
    let q := (p.modTask t.num fun t => { t with state := .assigned, cart := some c.num, dest := dest }).modCart c.num
      fun c => { c with task := some t.num }
    match q.giveLeg c.num { stop := x, task := some t.num } with
    | (q, true) => q
    | (q, false) => (q.backToWaiting t.num).modTask t.num fun t => { t with waitsFor := some (p.sourceCondition t) }

/-- Carts that may be taken from class 2 work: ASSIGNED to a STOW or REJECT suspended fewer than three times (R98). -/
def Plant.takeable (p : Plant) : List (Cart × Task) :=
  p.traffic.carts.filterMap fun c =>
    match c.task.bind p.task? with
    | some t =>
      if (t.kind = .stow ∨ t.kind = .reject) ∧ t.state = .assigned ∧ t.suspensions < Config.suspendCap then some (c, t)
      else none
    | none => none

/-- A ready class 0 task takes a cart from class 2 work; a slot that this empties is offered first to loaded STOWs without
one (R28, R29, R98). -/
def Plant.suspend (p : Plant) (t : Task) (x : Nat) : Option Plant :=
  match argMin (fun (ct : Cart × Task) => p.distanceKey x ct.1) p.takeable with
  | none => none
  | some (c, old) =>
    let p := (p.backToWaiting old.num).modTask old.num fun o => { o with suspensions := satAdd 255 o.suspensions 1 }
    some (p.serveSlots.assign t c x)

/-- One assignment: the first ready task in queue order; with no free cart, a class 0 task may suspend another. -/
def Plant.assignRound (p : Plant) : Option Plant :=
  let ready := p.queueOrder.filter p.isReady
  if p.freeCarts.isEmpty then
    (ready.find? fun t => t.cls == 0).bind fun t => (p.fromStop t).bind fun x => p.suspend t x
  else
    ready.head?.bind fun t =>
      (p.fromStop t).bind fun x => (p.pickCart x).map fun c => p.assign t c x

/-! ### Arrivals reported with a task (R94, R96) -/

/-- A cart IDLE where its task wants a transfer, other than the carts already refused in this event. A cart whose task starts
while it stands at the to stop is one, though its leg there was refused STOP_TAKEN or STOP_LOST: R95 speaks only of a cart at
its from stop (DESIGN CHOICE, log 76). -/
def Plant.arrivedWithTask (p : Plant) (refused : List Nat) : Option (Cart × Task × TransferDir) :=
  p.traffic.carts.findSome? fun c =>
    if c.state = .idle ∧ refused.contains c.num = false then
      match c.task.bind p.task?, c.atStop with
      | some t, some x =>
        if t.state = .assigned ∧ p.fromStop t = some x then some (c, t, .toCart)
        else if t.state = .carrying ∧ t.dest = some x then some (c, t, .toStop)
        else none
      | _, _ => none
    else none

/-- The arm a transfer names: the butt's arm, or the target arm of a mount (R94, R96). -/
def transferArm (t : Task) : TransferDir → Option Arm
  | .toCart =>
    match t.src with
    | .arm _ m => some m
    | .stop _ => none
    | .cart _ => none
  | .toStop => if t.kind = .feedMount then t.arm else none

/-- The scheduler asks for the transfer; accepted, the task is LOADING with its carry leg queued, or UNLOADING;
refused, it fails NOT_READY (R94, R96). -/
def Plant.askTransfer (p : Plant) (c : Cart) (t : Task) (dir : TransferDir) : Plant × Bool :=
  match c.atStop with
  | none => (p, false)
  | some x =>
    match p.requestTransfer c.num x dir (transferArm t dir), dir with
    | (p, true), .toCart => ((p.modTask t.num fun t => { t with state := .loading }).giveCarryLeg t.num, true)
    | (p, true), .toStop => (p.modTask t.num fun t => { t with state := .unloading }, true)
    | (p, false), _ => (p.failTask t.num .notReady (p.taskRollNo t.num), false)

/-! ### Slots and carry legs that were waiting (R28, R29, R95) -/

/-- A cart with its task's roll, at rest or on a leg elsewhere, may be given a leg (R95). -/
def Cart.mayCarry (c : Cart) (y : Nat) : Bool :=
  !c.boundFor y &&
    (match c.state with
     | .idle => c.atStop != some y
     | .starting => true
     | .running => true
     | .held => true
     | .transfer => true
     | .parked => false
     | .fault => false
     | .manual => false)

/-- A LOADING or CARRYING task whose cart has no leg to a to stop that would now be accepted (R95). Of several that wait for one
stop, the oldest in order of creation is given its leg first (DESIGN CHOICE, log 61). R95 names the to stop's claim and module as
what the leg waits for; one refused because the cart's own stop is on a lost module (R74) is given again too, when that stop is back
(DESIGN CHOICE, log 71). -/
def Plant.carryRound (p : Plant) : Option Plant :=
  (p.sched.queue.findSome? fun t =>
    if t.state = .loading ∨ t.state = .carrying then
      match t.cart.bind p.cart?, t.dest with
      | some c, some y =>
        if c.mayCarry y = true ∧ p.legRefusal c y = none then some t else none
      | _, _ => none
    else none).map fun t => p.giveCarryLeg t.num

/-! ### Settling -/

/-- The target arm of a WAITING FEED_MOUNT (R97); a refused leg's wait ends when its condition changes (R94). -/
def Plant.retarget (p : Plant) (t : Task) : Task :=
  { t with
    arm := if t.kind = .feedMount ∧ t.state = .waiting then (t.stand.bind p.stand?).map (·.targetArm) else t.arm
    waitsFor := if t.waitsFor = some (p.sourceCondition t) then t.waitsFor else none }

def Plant.refreshTasks (p : Plant) : Plant :=
  { p with sched := { p.sched with queue := p.sched.queue.map p.retarget } }

/-- The plant with the carts whose transfer has been refused in this event. -/
structure Settling where
  plant : Plant
  refused : List Nat

/-- One thing left to do, in the order: a transfer to ask for, a slot that opened, an assignment, a carry leg. -/
def Settling.round (s : Settling) : Option Settling :=
  let p := s.plant.refreshTasks
  match p.arrivedWithTask s.refused with
  | some (c, t, dir) =>
    match p.askTransfer c t dir with
    | (p, true) => some { s with plant := p }
    | (p, false) => some { plant := p, refused := c.num :: s.refused }
  | none =>
    match p.slotRound with
    | some p => some { s with plant := p }
    | none =>
      match p.assignRound with
      | some p => some { s with plant := p }
      | none => p.carryRound.map fun p => { s with plant := p }

/-- The scheduler and the traffic controller bring the plant to rest after an event (log 7). -/
def Plant.settle (p : Plant) : Plant :=
  let s := rounds Settling.round Config.settleRounds { plant := p, refused := [] }
  (s.plant.refreshTasks.parkFreeCarts.arbitrate).settleLevels

end Sys2Proof.Machine
end

