-- ==== Sys2Proof/Machine/Supply.lean ====
section
/-!
DEFINITION. The supply unit (03, R39 to R62): calls and offers of a caller, holds and shipments of a giver.
-/
namespace Sys2Proof.Machine

/-- The link whose neighbour is a node; each link names a different neighbour (R39). -/
def Plant.linkTo (p : Plant) (node : Nat) : Option Nat :=
  (oneTo p.image.links.length).find? fun n =>
    match p.linkCfg n with
    | some c => c.neighbour == node
    | none => false

/-! ### The caller side -/

/-- A call is opened and broadcast (R40, R41). -/
def Plant.openCall (p : Plant) (stand grade width minLen : Nat) : Plant :=
  let n := p.supply.nextCall
  let call : Call :=
    { num := n, stand := stand, grade := grade, width := width, minLen := minLen, state := .opened, best := none,
      offerers := [], expiry := p.now + Config.offerWindow, link := none }
  ({ p with supply := { p.supply with calls := p.supply.calls ++ [call], nextCall := wrapSucc 255 n } }).send 0
    (.call n grade width minLen)

/-- The live call of a number. Should two live calls have one number, the counter of R40 having gone round, the older record is
meant (DESIGN CHOICE, log 41). -/
def Plant.callNumbered (p : Plant) (n : Nat) : Option Call := p.supply.calls.find? (·.num == n)

/-- Lower cost, then older, then lower node number (R42). -/
def Offer.key (o : Offer) : List Nat := [o.cost, youth o.dock, o.node]

def Call.betterWith (c : Call) (o : Offer) : Bool :=
  match c.best with
  | none => true
  | some b => decide (o.key < b.key)

/-- An OFFER (R42). -/
def Plant.takeOffer (p : Plant) (f : Frame) : Plant :=
  match p.callNumbered f.callNo with
  | none => p
  | some c =>
    if c.state ≠ .opened ∨ p.linkTo f.src = none ∨ c.offerers.contains f.src = true then p
    else
      let o : Offer := { node := f.src, roll := f.rollNo, cost := f.num 6 1, dock := f.offerDock }
      p.modCall c.stand fun c =>
        { c with offerers := c.offerers ++ [f.src], best := if c.betterWith o then some o else c.best }

/-- A call enters FAILED for its retry interval (R43, R45, R46, R48). -/
def Plant.failCall (p : Plant) (stand : Nat) : Plant :=
  p.modCall stand fun c => { c with state := .failed, expiry := p.now + Config.retryWait }

/-- The end of the offer window (R43). -/
def Plant.offerWindowEnd (p : Plant) (stand : Nat) : Plant :=
  match p.callOf? stand with
  | none => p
  | some c =>
    if c.state = .opened ∧ reached p.now c.expiry = true then
      match c.best with
      | none => (p.failCall stand).event (.callUnmet stand c.grade c.width c.minLen)
      | some b =>
        ((p.send b.node (.take c.num b.roll)).send 0 (.close c.num)).modCall stand fun c =>
          { c with state := .chosen, link := p.linkTo b.node, expiry := p.now + Config.shipWait }
    else p

/-- A frame that comes from the best offerer of a CHOSEN call and carries its number (R44 to R46). -/
def Plant.chosenCall (p : Plant) (f : Frame) : Option Call :=
  (p.callNumbered f.callNo).filter fun c =>
    c.state == .chosen &&
      (match c.best with
       | some b => b.node == f.src
       | none => false)

/-- SHIP of stage COMING (R44). The frame's arrival is taken to be its hand-over to the supply unit, not its joining the receive
queue: the 5 s count from this step (DESIGN CHOICE, log 58). -/
def Plant.takeComing (p : Plant) (f : Frame) : Plant :=
  match p.chosenCall f with
  | some c => p.modCall c.stand fun c => { c with expiry := p.now + Config.shipWait }
  | none => p

/-- GONE at the caller (R46). -/
def Plant.takeGone (p : Plant) (f : Frame) : Plant :=
  match p.chosenCall f with
  | some c => (p.failCall c.stand).event (.callFailed c.stand Reason.callGone 0)
  | none => p

/-- The SHIP wait runs out (R46). -/
def Plant.shipWaitEnd (p : Plant) (stand : Nat) : Plant :=
  match p.callOf? stand with
  | none => p
  | some c =>
    if c.state = .chosen ∧ reached p.now c.expiry = true then
      (p.failCall stand).event (.callFailed stand Reason.callNoShip 0)
    else p

/-- The retry interval runs out (R49). -/
def Plant.retryEnd (p : Plant) (stand : Nat) : Plant :=
  match p.callOf? stand with
  | none => p
  | some c => if c.state = .failed ∧ reached p.now c.expiry = true then p.freeCall stand else p

/-- Why a READY from the chosen giver cannot be taken in, if it cannot: the checks of R45 in their order. -/
def Plant.shipRefusal (p : Plant) (c : Call) (s : Snapshot) : Option Nat :=
  match c.link.bind p.link?, c.link.bind p.linkCfg with
  | some l, some cfg =>
    if l.inb.expecting then some Reason.inBusy
    else if p.stopEmpty cfg.inStop = false ∨ p.stopLost cfg.inStop = true then some Reason.inBusy
    else if s.grade ≠ some c.grade ∨ widthNear s.width c.width = false then some Reason.mismatch
    else if p.freeIndex = none then some Reason.tableFull
    else if s.num ≠ 0 ∧ (p.holderOf s.num).isSome = true then some Reason.duplicate
    else none
  | _, _ => some Reason.inBusy

/-- A READY that passes: the EXPECTED record, ACCEPT, the inbound record and the call (R19, R45). A READY with no roll number makes
an unknown record, and that record has the claim STAND(s) as R19 and R45 say, though R8 grants none to an unknown roll (DESIGN
CHOICE, log 21). -/
def Plant.acceptShip (p : Plant) (c : Call) (link inStop giver : Nat) (s : Snapshot) : Plant :=
  match p.createRoll (s.roll p.core .expected (.stop inStop) (.stand c.stand) s.part) with
  | none => p
  | some (h, p) =>
    (((p.modStop inStop fun st => { st with expected := some h }).send giver (.accept c.num s.num)).modLink link
      fun l =>
        { l with inb := { expecting := true, roll := some h, giver := giver, callNo := c.num,
                          landing := some (p.now + Config.landingWait), claimed := true } }).modCall c.stand fun c =>
      { c with state := .inbound }

/-- SHIP of stage READY (R21, R45, R51). -/
def Plant.takeReady (p : Plant) (f : Frame) : Plant :=
  let s := f.shipSnapshot.ranged
  if p.linkTo f.src = none then p.send f.src (.refuse f.callNo s.num Reason.noLink)
  else
    match p.chosenCall f with
    | none => p.send f.src (.refuse f.callNo s.num Reason.noCall)
    | some c =>
      let inStop := ((c.link.bind p.linkCfg).map (·.inStop)).getD 0
      match p.shipRefusal c s with
      | some why =>
        let p := if why = Reason.tableFull then p.event (.tableFull s.num (.stop inStop)) else p
        ((p.send f.src (.refuse f.callNo s.num why)).failCall c.stand).event
          (.callFailed c.stand Reason.callRefused why)
      | none => p.acceptShip c (c.link.getD 0) inStop f.src s

/-- The caller's landing wait runs out (R48). -/
def Plant.callerLandingEnd (p : Plant) (link : Nat) : Plant :=
  match p.link? link with
  | none => p
  | some l =>
    if l.inb.expecting = true ∧ reached? p.now l.inb.landing = true then
      let n := p.rollNoOf l.inb.roll
      let p :=
        match l.inb.roll with
        | some h => p.deleteRoll h
        | none => p
      let p := (p.modLink link fun l => { l with inb := Inbound.idle }).event
        (.transferUnconfirmed link l.inb.callNo n)
      if l.inb.claimed then
        match p.callNumbered l.inb.callNo with
        | some c => if c.state = .inbound then p.failCall c.stand else p
        | none => p
      else p
    else p

/-- A call is withdrawn (R50). -/
def Plant.withdrawCall (p : Plant) (stand : Nat) : Plant :=
  match p.callOf? stand with
  | none => p
  | some c =>
    match c.state with
    | .opened => (p.send 0 (.close c.num)).freeCall stand
    | .chosen => (p.send 0 (.close c.num)).freeCall stand
    | .failed => p.freeCall stand
    | .inbound =>
      let p := p.freeCall stand
      match p.supply.links.find? fun l => l.inb.expecting && l.inb.claimed && l.inb.callNo == c.num with
      | some l =>
        let p := p.modLink l.num fun l => { l with inb := { l.inb with claimed := false } }
        match l.inb.roll with
        | some h => p.release h (.stand stand)
        | none => p
      | none => p

/-! ### The giver side -/

/-- One of this node's own calls wants the same paper (R52). -/
def Plant.ownCallFor (p : Plant) (grade width : Nat) : Bool :=
  p.image.isLine && p.supply.calls.any fun c => c.grade == grade && widthNear (some c.width) width

/-- The link a CALL may be answered on (R52). -/
def Plant.offerLink (p : Plant) (f : Frame) : Option (LinkRec × LinkCfg) :=
  match (p.linkTo f.src).bind p.link?, (p.linkTo f.src).bind p.linkCfg with
  | some l, some cfg =>
    if l.out.state = .idle ∧ (p.supply.holds.any fun h => h.link == l.num && h.expiry.isNone) = false ∧
        p.stopEmpty cfg.outStop = true ∧ p.stopLost cfg.outStop = false ∧
        (p.supply.holds.any fun h => h.caller == f.src && h.callNo == f.callNo) = false ∧
        p.ownCallFor (f.num 1 1) (f.num 2 2) = false ∧ p.supply.holds.length < Config.holdCap then some (l, cfg)
    else none
  | _, _ => none

/-- The cost of a roll: ring sections from its slot to the OUT stop, at most 255 (R53). -/
def Plant.costFrom (p : Plant) (x outStop : Nat) : Nat :=
  match p.stopSec x, p.stopSec outStop with
  | some a, some b => min 255 (ringDist p.ringSize a b)
  | _, _ => 255

/-- A roll with the stop it stands at. -/
structure Standing where
  h : Handle
  r : Roll
  stop : Nat

/-- Every PLACED record with its stop. -/
def Plant.standing (p : Plant) : List Standing :=
  p.records.filterMap fun hr =>
    match hr.2.state, hr.2.loc with
    | .placed, .stop x => some { h := hr.1, r := hr.2, stop := x }
    | _, _ => none

/-- Rolls that may be offered for a CALL (R53). -/
def Plant.offerable (p : Plant) (f : Frame) : List Standing :=
  p.standing.filter fun s =>
    p.stopKind s.stop == some .slot && !p.stopLost s.stop && s.r.mayClaim true (.hold f.src f.callNo) &&
      s.r.grade == some (f.num 1 1) && widthNear s.r.width (f.num 2 2) && 0 < p.storedRemaining s.r &&
      f.num 4 4 ≤ p.storedRemaining s.r

/-- A CALL is considered, and answered with at most one OFFER (R52 to R54). -/
def Plant.considerCall (p : Plant) (f : Frame) : Plant :=
  match p.offerLink f with
  | none => p
  | some (l, cfg) =>
    match argMin (fun s => [p.costFrom s.stop cfg.outStop, youth s.r.dock, s.stop]) (p.offerable f) with
    | none => p
    | some s =>
      let p := p.modRoll s.h fun r => { r with claim := .hold f.src f.callNo }
      let hold : Hold :=
        { roll := s.h, caller := f.src, callNo := f.callNo, link := l.num, expiry := some (p.now + Config.holdWait) }
      ({ p with supply := { p.supply with holds := p.supply.holds ++ [hold] } }).send f.src
        (.offer f.callNo (numOr0 s.r.num) (p.costFrom s.stop cfg.outStop) s.r.dock)

/-- A hold is released and freed (R55 to R57). -/
def Plant.freeHold (p : Plant) (h : Hold) : Plant :=
  (p.release h.roll (.hold h.caller h.callNo)).dropHolds (· == h)

/-- The hold turns into a shipment (R55). A SHIP task refused FULL is answered with GONE alone: the outbound record, which R55 says
returns to IDLE, is never CARRYING and no COMING is queued before. A roll that has lost its HOLD claim is shipped without a claim,
and a SHIP task refused ROLL_GONE or IN_TASK is answered as one refused FULL (DESIGN CHOICE, log 44). -/
def Plant.startShipment (p : Plant) (h : Hold) (rollNo : Nat) : Plant :=
  let p := { p with
    supply := { p.supply with holds := updateIf (· == h) (fun h => { h with expiry := none }) p.supply.holds } }
  let p := p.modRoll h.roll fun r =>
    if r.claim = .hold h.caller h.callNo then { r with claim := .ship h.link } else r
  let src :=
    match (p.roll? h.roll).map (·.loc) with
    | some (.stop x) => Source.stop x
    | _ => Source.stop 0
  match p.createTask { kind := .ship, roll := h.roll, src := src, stand := none, link := some h.link } with
  | (p, none) =>
    (p.modLink h.link fun l =>
      { l with out := { Outbound.idle with
          state := .carrying, roll := some h.roll, caller := h.caller, callNo := h.callNo,
          coming := some (p.now + Config.comingPeriod) } }).send h.caller (.shipComing h.callNo rollNo)
  | (p, some _) =>
    ((p.send h.caller (.gone h.callNo rollNo)).release h.roll (.ship h.link)).dropHolds (·.roll == h.roll)

/-- TAKE (R55). -/
def Plant.takeTake (p : Plant) (f : Frame) : Plant :=
  match p.supply.holds.find? fun h =>
      h.caller == f.src && h.callNo == f.callNo && ((p.roll? h.roll).bind (·.num)) == some f.rollNo with
  | none => p.send f.src (.gone f.callNo f.rollNo)
  | some h =>
    if h.expiry = none then p
    else if (p.supply.holds.any fun o => o.link == h.link && o.expiry.isNone) = false ∧
        ((p.link? h.link).map (·.out.state)) = some .idle then p.startShipment h f.rollNo
    else (p.send f.src (.gone f.callNo f.rollNo)).freeHold h

/-- CLOSE (R56). -/
def Plant.takeClose (p : Plant) (f : Frame) : Plant :=
  match p.supply.holds.find? fun h => h.caller == f.src && h.callNo == f.callNo with
  | some h => if h.expiry = none then p else p.freeHold h
  | none => p

/-- A HELD hold expires (R57). -/
def Plant.holdEnd (p : Plant) (caller callNo : Nat) : Plant :=
  match p.supply.holds.find? fun h => h.caller == caller && h.callNo == callNo with
  | some h => if reached? p.now h.expiry then p.freeHold h else p
  | none => p

/-- Another COMING (R55, R58): every 2 s from the first. -/
def Plant.repeatComing (p : Plant) (link : Nat) : Plant :=
  match p.link? link with
  | none => p
  | some l =>
    if l.out.state = .carrying ∧ reached? p.now l.out.coming = true then
      (p.modLink link fun l =>
        { l with out := { l.out with coming := l.out.coming.map (· + Config.comingPeriod) } }).send l.out.caller
          (.shipComing l.out.callNo (p.rollNoOf l.out.roll))
    else p

/-- The link whose outbound record an ACCEPT, REFUSE or LANDED belongs to (R59, R61). -/
def Plant.outboundFor (p : Plant) (f : Frame) (states : List OutState) : Option LinkRec :=
  p.supply.links.find? fun l =>
    states.contains l.out.state && l.out.caller == f.src && l.out.callNo == f.callNo &&
      p.rollNoOf l.out.roll == f.rollNo

/-- A shipment ends without delivery (R62). -/
def Plant.endUndelivered (p : Plant) (l : LinkRec) : Plant :=
  let p :=
    match l.out.roll with
    | some h => p.release h (.ship l.num)
    | none => p
  let p := p.outIdle l.num
  match p.linkCfg l.num with
  | some c => p.askOrPend c.outStop .stow
  | none => p

/-- ACCEPT (R59). -/
def Plant.takeAccept (p : Plant) (f : Frame) : Plant :=
  match p.outboundFor f [.asking] with
  | some l =>
    p.modLink l.num fun l =>
      { l with out := { l.out with
          state := .conveying, accept := none, clear := some (p.now + Config.clearWait),
          landing := some (p.now + Config.landingWait) } }
  | none => p

/-- REFUSE (R59, R62). -/
def Plant.takeRefuse (p : Plant) (f : Frame) : Plant :=
  match p.outboundFor f [.asking] with
  | some l => (p.event (.shipRefused l.num l.out.callNo f.rollNo (f.num 6 1))).endUndelivered l
  | none => p

/-- The ACCEPT wait runs out (R59, R62). -/
def Plant.acceptWaitEnd (p : Plant) (link : Nat) : Plant :=
  match p.link? link with
  | none => p
  | some l =>
    if l.out.state = .asking ∧ reached? p.now l.out.accept = true then
      (p.event (.shipRefused link l.out.callNo (p.rollNoOf l.out.roll) Reason.noAnswer)).endUndelivered l
    else p

/-- The conveyor clear wait runs out (R60, R62). -/
def Plant.conveyorClearEnd (p : Plant) (link : Nat) : Plant :=
  match p.link? link with
  | none => p
  | some l =>
    if l.out.state = .conveying ∧ reached? p.now l.out.clear = true then
      (p.event (.conveyorFault link (p.rollNoOf l.out.roll))).endUndelivered l
    else p

/-- The record is deleted, the conveyor stops, the outbound record is IDLE (R61). -/
def Plant.endShipment (p : Plant) (l : LinkRec) : Plant :=
  (match l.out.roll with
   | some h => p.deleteRoll h
   | none => p).outIdle l.num

/-- LANDED (R61). -/
def Plant.takeLanded (p : Plant) (f : Frame) : Plant :=
  match p.outboundFor f [.conveying, .inTransit] with
  | some l => p.endShipment l
  | none => p

/-- The giver's landing wait runs out (R61). -/
def Plant.giverLandingEnd (p : Plant) (link : Nat) : Plant :=
  match p.link? link with
  | none => p
  | some l =>
    if (l.out.state = .conveying ∨ l.out.state = .inTransit) ∧ reached? p.now l.out.landing = true then
      (p.endShipment l).event (.transferUnconfirmed link l.out.callNo (p.rollNoOf l.out.roll))
    else p

end Sys2Proof.Machine
end

