-- ==== Sys2Proof/Machine/Store.lean ====
section
/-!
DEFINITION. The store controller: roll requests (R30 to R34) and the PREP stop's buttons (R35, R37). Put-away is in
Tasks.lean, since assignment asks for it.
-/
namespace Sys2Proof.Machine

/-! ### Roll requests -/

/-- Rolls eligible for a stand whose running roll has this grade and width (R31). -/
def Plant.eligible (p : Plant) (stand grade width : Nat) : List Standing :=
  p.standing.filter fun s =>
    (p.stopKind s.stop == some .slot || p.stopKind s.stop == some .inn) && !p.stopLost s.stop &&
      s.r.mayClaim false (.stand stand) && !p.inTask s.h && ((p.stop? s.stop).bind (·.pending)).isNone &&
      s.r.grade == some grade && widthNear s.r.width width && 0 < p.storedRemaining s.r

/-- The choice among the eligible rolls (R33): the shortest partial roll that covers the residual need, or the oldest. -/
def Plant.chooseRoll (p : Plant) (need : Nat) (l : List Standing) : Option Standing :=
  let covering := l.filter fun s => s.r.part && need ≤ p.storedRemaining s.r
  match if 0 < need then
      argMin (fun s => [p.storedRemaining s.r, youth s.r.dock, s.stop]) covering
    else none with
  | some s => some s
  | none => argMin (fun s => [youth s.r.dock, s.stop]) l

/-- The residual need (R32): 0 with no edition loaded, the whole need while the remaining length is not known. -/
def residualNeed (need remaining : Option Nat) : Nat :=
  match need with
  | none => 0
  | some n => n - remaining.getD 0

/-- A chosen roll is claimed and its FEED_PREP asked for (R34). -/
def Plant.serveStand (p : Plant) (stand : Nat) (s : Standing) : Plant × Answer :=
  let p := p.modRoll s.h fun r => { r with claim := .stand stand }
  match p.createTask { kind := .feedPrep, roll := s.h, src := .stop s.stop, stand := some stand, link := none } with
  | (p, none) => (p, .selected)
  | (p, some _) => (p.release s.h (.stand stand), .deferred)

/-- The pattern of a stand: the grade and width of the roll on its running arm (R30). -/
def Plant.pattern (p : Plant) (stand : Nat) : Option (Nat × Nat) :=
  match (p.stand? stand).bind fun s => s.runArm.bind fun m => p.refRoll (s.arm m).roll with
  | some r =>
    match r.grade, r.width with
    | some g, some w => some (g, w)
    | _, _ => none
  | none => none

/-- A roll request with no pattern (R30 step 1). -/
def Plant.unmatched (p : Plant) (stand : Nat) : Plant :=
  match p.stand? stand with
  | some s =>
    if s.unidentSent then p
    else (p.modStand stand fun s => { s with unidentSent := true }).event (.standUnidentified stand)
  | none => p

/-- A call for the stand in any state but INBOUND is withdrawn (R30 step 3). -/
def Plant.withdrawOutside (p : Plant) (stand : Nat) : Plant :=
  match p.callOf? stand with
  | some c => if c.state = .inbound then p else p.withdrawCall stand
  | none => p

/-- A roll request (R30). -/
def Plant.rollRequest (p : Plant) (stand need : Nat) : Plant × Answer :=
  match p.pattern stand with
  | none => (p.unmatched stand, .unmatched)
  | some (g, w) =>
    let p := p.modStand stand fun s => { s with unidentSent := false }
    match p.chooseRoll need (p.eligible stand g w) with
    | some s => (p.withdrawOutside stand).serveStand stand s
    | none =>
      if (p.callOf? stand).isSome then (p, .called) else (p.openCall stand g w need, .called)

/-! ### The PREP stop (R35, R37) -/

/-- The roll at a stop is being transferred onto a cart. -/
def Plant.leavingStop (p : Plant) (x : Nat) : Bool :=
  match p.stop? x with
  | some s => s.transfer == some .toCart
  | none => false

def Plant.namedBy (p : Plant) (h : Handle) (kinds : List TaskKind) : Option Task :=
  p.sched.queue.find? fun t => t.roll == h && kinds.contains t.kind

/-- A prep confirm (R35). -/
def Plant.prepConfirm (p : Plant) (x : Nat) : Plant :=
  if p.stopKind x ≠ some .prep then p
  else
    match (p.stop? x).bind (·.roll) with
    | none => p
    | some h =>
      match p.roll? h with
      | none => p
      | some r =>
        if p.leavingStop x then p.event (.prepRefused x Reason.inputConfirm)
        else if (p.namedBy h [.feedMount, .stow]).isSome ∨ r.rejected = true then p
        else
          match r.claim with
          | .stand _ => (p.modRollIn h .placed fun r => { r with prepared := true }).askOrPend x .feedMount
          | .none => (p.modRollIn h .placed fun r => { r with prepared := true }).askOrPend x .stow
          | .hold _ _ => p
          | .ship _ => p

/-- A FEED_MOUNT or STOW that has not begun loading is removed on a reject (R37 step 2). -/
def Plant.removeForReject (p : Plant) (h : Handle) : Plant :=
  match p.namedBy h [.feedMount, .stow] with
  | some t => if t.state = .waiting ∨ t.state = .assigned then p.dropTask t.num else p
  | none => p

/-- A reject (R37). The place of the task that step 2 removes is offered to the pending items before step 4 asks for the REJECT
(DESIGN CHOICE, log 26). -/
def Plant.prepReject (p : Plant) (x : Nat) : Plant :=
  if p.stopKind x ≠ some .prep then p
  else
    match (p.stop? x).bind (·.roll) with
    | none => p
    | some h =>
      match p.roll? h with
      | none => p
      | some r =>
        if p.leavingStop x then p.event (.prepRefused x Reason.inputReject)
        else if r.rejected = true ∧ (p.namedBy h [.reject]).isSome = true then p
        else
          (((p.modRollIn h .placed fun r => { r with rejected := true }).removeForReject h).releaseStand h).askOrPend x
            .reject

end Sys2Proof.Machine
end

