-- ==== Sys2Proof/Machine/Splice.lean ====
section
/-!
DEFINITION. The splice controller (07): arms and duties (R123 to R129), the phases of the flying splice (R133 to R143),
rolls taken off an arm (R145) and butts (R146).
-/
namespace Sys2Proof.Machine

/-! ### Duties (R127, R128) and the two lines of R129 -/

/-- The tension formula (R127). -/
def tensionDuty (tension d torque : Nat) : Nat := min 1000 (quotient (tension * d + 10 * torque) (20 * torque))

/-- The speed-match formula (R128). -/
def speedMatchDuty (v d rpm : Nat) : Nat :=
  let divisor := Config.pi5 * d * rpm
  min 1000 (quotient (60000000000 * v + divisor / 2) divisor)

/-- D of a RUN arm: D_filt, or else the record's diameter (R127). -/
def Plant.armDiameter (p : Plant) (a : ArmRec) : Option Nat :=
  match a.est.dFilt with
  | some d => some d
  | none => (p.refRoll a.roll).bind (·.diam)

/-- The brake duty of a RUN arm (R127); with no D the output-valid line is low and the duty is free (log 9). -/
def Plant.runDuty (p : Plant) (n : Nat) (a : ArmRec) : Nat :=
  match p.armDiameter a, p.standCfg n with
  | some d, some c => tensionDuty (p.gradeOr0 ((p.refRoll a.roll).bind (·.grade))).tension d c.torqueMax
  | _, _ => min 1000 (Config.dutyWithoutDiameter a.brake)

/-- The brake duty of an arm that is not in RUN (R127). -/
def ArmState.brake : ArmState → Nat
  | .empty => 0
  | .spin => 0
  | .mounted => 1000
  | .ready => 1000
  | .butt => 1000
  | .run => 0

/-- The output-valid line (R129): high in RUN, except while the stand's RUN arm has no D. -/
def Plant.outputValid (p : Plant) (n : Nat) : Bool :=
  p.lineRun &&
    (match p.stand? n with
     | some s =>
       (match s.runArm with
        | some m => (p.armDiameter (s.arm m)).isSome
        | none => true)
     | none => false)

/-- The press stop request in RUN (R129). -/
def Plant.pressStopNow (p : Plant) : Plant :=
  { p with splice := { p.splice with pressStop := p.splice.stands.any (·.runOut) } }

/-! ### Arm changes -/

/-- An arm takes a state other than RUN, with its brake duty and no drive (R127, R128). -/
def Plant.setArmState (p : Plant) (n : Nat) (m : Arm) (st : ArmState) : Plant :=
  p.modArm n m fun a => { a with state := st, brake := st.brake, drive := 0 }

def Plant.armHandle (p : Plant) (n : Nat) (m : Arm) : Option Handle := (p.arm? n m).bind (·.roll.handle)

/-- An arm's record goes from one state to another (R5). -/
def Plant.armRecord (p : Plant) (n : Nat) (m : Arm) (before : RollState) (f : Roll → Roll) : Plant :=
  match p.armHandle n m with
  | some h => p.modRollIn h before f
  | none => p

/-- An arm becomes RUN: its record is RUN and its STAND claim is released, the estimator seeds, the brake follows the
tension formula (R5, R9, R110, R125, R138). -/
def Plant.armRuns (p : Plant) (n : Nat) (m : Arm) (before : RollState) : Plant :=
  let p := p.armRecord n m before fun r =>
    { r with state := .run, claim := if r.claim = .stand n then .none else r.claim }
  let p := p.modArm n m fun a => { a with state := .run, drive := 0, est := a.est.enterSeeding }
  p.modArm n m fun a => { a with brake := p.runDuty n a }

/-- D_filt is written into the record of an arm that leaves RUN (R110). -/
def Plant.writeDiameter (p : Plant) (n : Nat) (m : Arm) : Plant :=
  match p.armHandle n m, (p.arm? n m).bind (·.est.dFilt) with
  | some h, some d => p.modRoll h fun r => { r with diam := some d }
  | _, _ => p

/-- The old RUN arm at the role swap (R138). Its estimator enters NONE with D_filt kept (R110); S, the last capture, the reject run
count and the suspect mark, of which R110 says nothing, stay as they were until the next SEEDING (DESIGN CHOICE, log 73). -/
def Plant.armButts (p : Plant) (n : Nat) (m : Arm) : Plant :=
  ((p.writeDiameter n m).armRecord n m .run fun r => { r with state := .butt, prepared := false }).modArm n m fun a =>
    { a with state := .butt, brake := 1000, drive := 0, lastPulse := some p.nowUs, stopped := false,
             est := { a.est with mode := .none } }

/-- A stand becomes IDLE (R126). -/
def Plant.standIdle (p : Plant) (n : Nat) : Plant :=
  (p.modStand n fun s => { s with runArm := none, runOut := false }).pressStopNow

/-- The phase becomes NONE: W_p, W_k, the old roll, the fire time and the splice-now mark go (R122, R139, R142). -/
def Stand.phaseNone (s : Stand) : Stand :=
  { s with phase := .none, pastePos := none, verifyStart := none, oldRoll := .none, fireTime := none, spliceNow := false }

/-! ### Ready confirm (R125, R126, R164) -/

def State.readyConfirm (s : State) (n : Nat) (m : Arm) : State :=
  match s.stand? n with
  | none => s
  | some st =>
    if (st.arm m).state = .mounted then
      if st.running then
        s.modPlant fun p =>
          (p.armRecord n m .mounted fun r => { r with state := .ready }).setArmState n m .ready
      else
        (s.modPlant fun p => (p.armRuns n m .mounted).modStand n fun st => { st with runArm := some m }).resetFolder n
          (st.arm m).roll
    else s

/-! ### Aborts and failures (R139, R140, R143) -/

def Phase.abortable : Phase → Bool
  | .accel => true
  | .matched => true
  | .armed => true
  | .none => false
  | .pasted => false
  | .verify => false
  | .decel => false

/-- An abort in ACCEL, MATCHED or ARMED (R140). -/
def State.abort (s : State) (n cause : Nat) : State :=
  match s.stand? n with
  | none => s
  | some st =>
    if st.phase.abortable then
      let s := s.modStand n fun st =>
        { st with phase := .decel, matchedCount := 0, fireTime := none, spliceNow := false }
      let s :=
        match st.armIn .spin with
        | some m => s.modArm n m fun a =>
          { a with drive := 0, brake := 0, lastPulse := some (a.lastPulse.getD s.plant.nowUs) }
        | none => s
      s.event (.spliceAborted n cause)
    else s

/-- The web lost in VERIFY (R139). -/
def State.failVerify (s : State) (n : Nat) : State :=
  match s.stand? n with
  | none => s
  | some st =>
    (((s.modStand n fun st => { st.phaseNone with broken := true }).event (.spliceFailed n st.runArm)).latchFailure n)

/-- A web break (R143). -/
def State.webBreak (s : State) (n : Nat) : State :=
  match s.stand? n with
  | none => s
  | some st =>
    ((((s.modStand n fun st => { st with broken := true }).event (.webBreak n st.runArm)).latchBreak).abort n
      Reason.abortWebBreak)

/-- A change of a web-present input (R139, R143). -/
def State.webPresentChanged (s : State) (n : Nat) (on : Bool) : State :=
  match s.stand? n with
  | none => s
  | some st =>
    if on then s.modStand n fun st => { st with broken := false }
    else if st.phase = .verify then s.failVerify n
    else if st.running = true ∧ s.inUse n = true ∧ s.plant.pressRun = true then s.webBreak n
    else s

/-! ### The knife and the role swap (R137, R138, R145) -/

/-- The time an output pulse ends: the stand's pulse width, in ms, from now (R136, R137). -/
def Plant.pulseEnd (p : Plant) (n : Nat) : Option Ticks :=
  (p.standCfg n).map fun c => p.now + BitVec.ofNat 32 c.pulseWidth

/-- The role swap with a SPIN arm to swap to: it becomes RUN and the phase VERIFY, with the old arm's roll as its old roll;
without web, R139 at once. -/
def State.swapTo (s : State) (n : Nat) (m : Arm) : State :=
  let s := s.modPlant fun p =>
    ((p.armRuns n m .ready).modStand n fun st =>
      { st with runArm := some m, runOut := false, matchedCount := 0, verifyStart := some (s.webPos n),
                oldRoll := (st.arm m.other).roll, phase := .verify }).pressStopNow
  if s.plant.webPresent n then s else s.failVerify n

/-- The role swap with the new arm EMPTY (R145): the stand is IDLE and the splice has failed. SPLICE_FAILED names no arm: its arm
byte is 0 (DESIGN CHOICE, log 54). -/
def State.swapToNothing (s : State) (n : Nat) : State :=
  ((s.modPlant fun p => (p.modStand n fun st => { st.phaseNone with matchedCount := 0 }).standIdle n).event
    (.spliceFailed n none)).latchFailure n

/-- The knife fires: the output pulse, then the role swap; the change of an arm that has become EMPTY is not made. -/
def State.fireKnife (s : State) (n : Nat) : State :=
  match s.stand? n with
  | none => s
  | some st =>
    match st.runArm with
    | none => s
    | some o =>
      let s := s.modPlant fun p => p.modStand n fun st => { st with knifeEnd := p.pulseEnd n }
      let s := if (st.arm o).state = .run then s.modPlant fun p => p.armButts n o else s
      if (st.arm o.other).state = .spin then s.swapTo n o.other else s.swapToNothing n

/-- In PASTED, W has passed W_p plus the knife offset (R137). -/
def State.knifeDue (s : State) (n : Nat) : Bool :=
  match s.stand? n, s.plant.standCfg n with
  | some st, some c =>
    st.phase == .pasted &&
      (match st.pastePos with
       | some w => passed (s.webPos n) (w + mm c.knifeOffset)
       | none => false)
  | _, _ => false

/-! ### VERIFY (R139) -/

def State.verifyDue (s : State) (n : Nat) : Bool :=
  match s.stand? n, s.plant.standCfg n with
  | some st, some c =>
    st.phase == .verify &&
      (match st.verifyStart with
       | some w => passed (s.webPos n) (w + mm c.verifyLen)
       | none => false)
  | _, _ => false

/-- The roll number on an arm, 0 where it is not known. -/
def Plant.armRollNo (p : Plant) (st : Stand) (m : Option Arm) : Nat :=
  match m with
  | some m => p.refNo (st.arm m).roll
  | none => 0

/-- The verify length has passed. The old roll is that of the role swap, whatever the standby arm holds by now; 0 once its
record is deleted (R139, log 38). -/
def State.verifyDone (s : State) (n : Nat) : State :=
  match s.stand? n with
  | none => s
  | some st =>
    (s.modStand n Stand.phaseNone).event
      (.spliceDone n st.runArm (s.plant.refNo st.oldRoll) (s.plant.armRollNo st st.runArm))

/-! ### ACCEL, MATCHED and ARMED (R133 to R136) -/

/-- Every condition of R133 but the time to splice. -/
def State.mayAccelerate (s : State) (n : Nat) : Bool :=
  match s.stand? n, s.plant.standCfg n with
  | some st, some c =>
    st.phase == .none && st.running && !st.broken && c.minSpeed ≤ s.speed n && s.plant.pressRun &&
      (match st.standby with
       | some m =>
         (st.arm m).state == .ready &&
           (match s.plant.refRoll (st.arm m).roll with
            | some r => !r.unknown && r.diam.isSome
            | none => false)
       | none => false)
  | _, _ => false

/-- The diameter of the roll that a SPIN arm carries (R128, R134). -/
def Plant.spinDiameter (p : Plant) (a : ArmRec) : Nat := ((p.refRoll a.roll).bind (·.diam)).getD 0

/-- The drive duty of a SPIN arm at the stand's speed (R128). -/
def State.driveDuty (s : State) (n : Nat) (a : ArmRec) : Nat :=
  match s.plant.standCfg n with
  | some c => speedMatchDuty (s.speed n) (s.plant.spinDiameter a) c.rpmMax
  | none => 0

/-- The stand enters ACCEL (R133). -/
def State.enterAccel (s : State) (n : Nat) : State :=
  match (s.stand? n).bind (·.standby) with
  | none => s
  | some m =>
    (s.modArm n m fun a =>
      { a with state := .spin, brake := 0, drive := s.driveDuty n a, lastPulse := none }).modStand n fun st =>
      { st with phase := .accel, matchedCount := 0 }

/-- The matched count has reached the settle revolutions; with the splice-now mark set the stand arms (R134, R135). -/
def State.enterMatched (s : State) (n : Nat) : State :=
  match s.stand? n, s.plant.standCfg n with
  | some st, some c =>
    if st.phase = .accel ∧ c.settleRevs ≤ st.matchedCount then
      s.modStand n fun st => { st with phase := if st.spliceNow then .armed else .matched }
    else s
  | _, _ => s

/-- A matched revolution in ARMED schedules the paste, or aborts it with PASTER_TIMING (R136). -/
def State.schedulePaste (s : State) (n tRev : Nat) : State :=
  match s.plant.standCfg n with
  | none => s
  | some c =>
    let d : Int := (c.theta * tRev / 1000 : Nat) - (c.actuatorDelay : Int)
    let d := if d < 0 then d + tRev else d
    if d < 0 then s.abort n Reason.abortPasterTiming
    else s.modStand n fun st => { st with fireTime := some (s.plant.nowUs + BitVec.ofNat 32 d.toNat) }

/-- v_arm within 3 per mille of v (R134). -/
def matchedSpeed (vArm v : Nat) : Bool := (if vArm ≤ v then v - vArm else vArm - v) * 1000 ≤ 3 * v

/-- A revolution of a SPIN arm has been judged (R134). -/
def State.judged (s : State) (n tRev : Nat) (matched : Bool) : State :=
  let again (s : State) : State := s.modStand n fun st => { st with phase := .accel, matchedCount := 0 }
  match s.stand? n with
  | none => s
  | some st =>
    match st.phase with
    | .accel =>
      if matched then
        (s.modStand n fun st => { st with matchedCount := satAdd 15 st.matchedCount 1 }).enterMatched n
      else s.modStand n fun st => { st with matchedCount := 0 }
    | .matched =>
      if matched then s.modStand n fun st => { st with matchedCount := satAdd 15 st.matchedCount 1 } else again s
    | .armed =>
      if st.fireTime.isSome then s
      else if matched then s.schedulePaste n tRev
      else again s
    | .none => s
    | .pasted => s
    | .verify => s
    | .decel => s

/-- A revolution pulse of a SPIN arm in ACCEL, MATCHED or ARMED (R134). -/
def State.spinPulse (s : State) (n : Nat) (m : Arm) : State :=
  match s.plant.arm? n m with
  | none => s
  | some a =>
    let s' := s.modArm n m fun a => { a with lastPulse := some s.plant.nowUs }
    match a.lastPulse with
    | none => s'
    | some t =>
      let tRev := elapsed s.plant.nowUs t
      if s.speed n = 0 then s'
      else
        s'.judged n tRev (matchedSpeed (quotient (Config.pi5 * s.plant.spinDiameter a) tRev) (s.speed n))

/-- A revolution pulse of the RUN arm (R109). -/
def State.runPulse (s : State) (n : Nat) (m : Arm) : State :=
  match s.plant.arm? n m with
  | none => s
  | some a =>
    let (e, suspect) := a.est.pulse (s.plant.figures a) s.plant.nowUs (s.webPos n)
    let s := s.modArm n m fun a => { a with est := e }
    match suspect with
    | some (f, d) => s.event (.diameterSuspect n m f d)
    | none => s

/-- A revolution pulse, by the arm's state (R109, R134, R185). -/
def State.armPulse (s : State) (n : Nat) (m : Arm) : State :=
  if s.plant.node = .survey then s.modArm n m fun a => { a with surveyPulses := a.surveyPulses + 1 }
  else if s.plant.lineRun then
    match s.stand? n with
    | none => s
    | some st =>
      match (st.arm m).state with
      | .run => s.runPulse n m
      | .spin =>
        if st.phase.abortable then s.spinPulse n m
        else if st.phase = .decel then s.modArm n m fun a => { a with lastPulse := some s.plant.nowUs }
        else s
      | .butt => s.modArm n m fun a => { a with lastPulse := some s.plant.nowUs }
      | .empty => s
      | .mounted => s
      | .ready => s
  else s

/-- The fire time has come (R136). -/
def State.pasteDue (s : State) (n : Nat) : Bool :=
  match s.stand? n with
  | some st => st.phase == .armed && reached? s.plant.nowUs st.fireTime
  | none => false

/-- The paste (R119, R136, R162). -/
def State.paste (s : State) (n : Nat) : State :=
  match s.stand? n with
  | none => s
  | some st =>
    let ref (m : Option Arm) : RollRef :=
      match m with
      | some m => (st.arm m).roll
      | none => RollRef.none
    (((s.modPlant fun p => p.modStand n fun st =>
      { st with pasterEnd := p.pulseEnd n, pastePos := some (s.webPos n), fireTime := none, spliceNow := false,
                phase := .pasted }).pushMark n (ref st.runArm) (ref st.standby)).modWeb n WebStand.discardTrim)

/-- Splice-now (R142). -/
def State.spliceNow (s : State) (n : Nat) : State :=
  match s.stand? n with
  | none => s
  | some st =>
    let mark (s : State) : State := s.modStand n fun st => { st with spliceNow := true }
    match st.phase with
    | .none => if s.mayAccelerate n then (mark s).enterAccel n else s.event (.spliceRefused n .none)
    | .accel => mark s
    | .matched => s.modStand n fun st => { st with spliceNow := true, phase := .armed }
    | .armed => mark s
    | .pasted => s.event (.spliceRefused n .pasted)
    | .verify => s.event (.spliceRefused n .verify)
    | .decel => s.event (.spliceRefused n .decel)

/-! ### Arms loaded and unloaded by hand (R124, R145) -/

/-- The arm-loaded input turns present on an EMPTY arm: an unknown record, or unrecorded if the table is full. -/
def Plant.armArrival (p : Plant) (n : Nat) (m : Arm) : Plant :=
  match p.createRoll (unknownRoll p.core .mounted (.arm n m)) with
  | some (h, p) => p.mountArm n m (.record h)
  | none => (p.event (.tableFull 0 (.arm n m))).mountArm n m .unrecorded

/-- The roll leaves the arm: its record is deleted with ROLL_LOST and the arm is EMPTY (R18, R124). -/
def Plant.armVacated (p : Plant) (n : Nat) (m : Arm) : Plant :=
  (match p.armHandle n m with
   | some h => p.loseRoll h (.arm n m)
   | none => p).emptyArm n m

/-- What the loss of the RUN arm's roll does (R145). SPLICE_FAILED names no arm: its arm byte is 0 (DESIGN CHOICE, log 54). -/
def State.runArmLost (s : State) (n : Nat) (phase : Phase) : State :=
  let idle := s.modPlant fun p => p.standIdle n
  match phase with
  | .none => idle
  | .verify => ((idle.modStand n Stand.phaseNone).event (.spliceFailed n none)).latchFailure n
  | .accel => idle.abort n Reason.abortRunArmLost
  | .matched => idle.abort n Reason.abortRunArmLost
  | .armed => idle.abort n Reason.abortRunArmLost
  | .pasted => s.fireKnife n
  | .decel => idle

/-- What the loss of the SPIN arm's roll does (R145). -/
def State.spinArmLost (s : State) (n : Nat) (phase : Phase) : State :=
  match phase with
  | .accel => (s.modStand n Stand.phaseNone).event (.spliceAborted n Reason.abortRollRemoved)
  | .matched => (s.modStand n Stand.phaseNone).event (.spliceAborted n Reason.abortRollRemoved)
  | .armed => (s.modStand n Stand.phaseNone).event (.spliceAborted n Reason.abortRollRemoved)
  | .decel => s.modStand n Stand.phaseNone
  | .pasted => s.fireKnife n
  | .none => s
  | .verify => s

/-- A roll leaves an arm with no transfer (R124, R145). -/
def State.armRemoved (s : State) (n : Nat) (m : Arm) : State :=
  match s.stand? n with
  | none => s
  | some st =>
    let s := s.modPlant fun p => p.armVacated n m
    match (st.arm m).state with
    | .run => s.runArmLost n st.phase
    | .spin => s.spinArmLost n st.phase
    | .mounted => s
    | .ready => s
    | .butt => s
    | .empty => s

/-- An arm-loaded input taken as an arrival or a removal (R124, R85). -/
def State.armInput (s : State) (n : Nat) (m : Arm) (on : Bool) : State :=
  match s.plant.arm? n m with
  | none => s
  | some a =>
    if on then if a.state = .empty then s.modPlant fun p => p.armArrival n m else s
    else if a.state = .empty then s
    else s.armRemoved n m

/-- A change of an arm-loaded input (R79, R80, R124). -/
def State.armLoadedChanged (s : State) (n : Nat) (m : Arm) (on : Bool) : State :=
  match (s.plant.standCfg n).map (·.standStop) with
  | none => s
  | some x =>
    if s.plant.transferAt x then s.modPlant fun p => p.checkTransfer x
    else if s.plant.handledByHand x then s
    else s.armInput n m on

/-! ### Arms seen stopped (R141, R146) -/

/-- More than 4 s since the arm's last standby pulse time (00_scope, Time). -/
def Plant.stoppedSince (p : Plant) (a : ArmRec) : Bool :=
  match a.lastPulse with
  | some t => longerThan Config.stoppedAfter p.nowUs t
  | none => false

def Plant.decelDue (p : Plant) (n : Nat) : Option Arm :=
  match p.stand? n with
  | some st =>
    if st.phase = .decel then (st.armIn .spin).filter fun m => p.stoppedSince (st.arm m) else none
  | none => none

/-- The SPIN arm of a stand in DECEL has stopped (R141). -/
def Plant.decelStopped (p : Plant) (n : Nat) : Plant :=
  match p.decelDue n with
  | some m =>
    ((p.setArmState n m .ready).modArm n m fun a => { a with lastPulse := none }).modStand n Stand.phaseNone
  | none => p

def Plant.buttDue (p : Plant) (n : Nat) (m : Arm) : Bool :=
  match p.arm? n m with
  | some a => a.state == .butt && !a.stopped && p.stoppedSince a
  | none => false

/-- The ROLL REPORT of a record on an arm (R146). -/
def rollReport (n : Nat) (m : Arm) (r : Roll) : Msg := .rollReport n m r.snapshot r.runMetres r.copies r.waste

/-- A BUTT arm is seen stopped: the mark, and for a record its ROLL REPORT and an UNLOAD (R146). -/
def Plant.buttStopped (p : Plant) (n : Nat) (m : Arm) : Plant :=
  if p.buttDue n m then
    let p := p.modArm n m fun a => { a with stopped := true }
    match (p.armHandle n m).bind p.roll? with
    | some r => (p.send 0 (rollReport n m r)).unloadOrPend n m
    | none => p
  else p

/-- A pulsed output goes off once its pulse width has passed (R136, R137). -/
def Stand.endPulse (s : Stand) (now : Ticks) : PulsedOutput → Stand
  | .paster => if reached? now s.pasterEnd then { s with pasterEnd := none } else s
  | .knife => if reached? now s.knifeEnd then { s with knifeEnd := none } else s

/-- What the brake and drive outputs show: the arm's duties, or 0 while the stand's output-valid line is low (R129). -/
def Plant.dutyOutputs (p : Plant) (n : Nat) (m : Arm) : Nat × Nat :=
  match p.arm? n m with
  | some a => if p.outputValid n then (a.brake, a.drive) else (0, 0)
  | none => (0, 0)

/-- One stand at the press-run falling edge: run-out is cleared, a splice before its paste is aborted, one after it is cut
at once (R137, R140, R144). -/
def State.standPressFall (s : State) (n : Nat) : State :=
  let s := (s.modStand n fun st => { st with runOut := false }).abort n Reason.abortPressOff
  match s.stand? n with
  | some st => if st.phase = .pasted then s.fireKnife n else s
  | none => s

/-- A press-run falling edge in RUN: the trim windows are discarded, the break latch is cleared, the stands act
(R120, R155, R167). -/
def State.pressFall (s : State) : State :=
  (forEach (oneTo 4) State.standPressFall (s.discardTrims.modWaste fun w => { w with latch := false })).modPlant
    Plant.pressStopNow

/-- The level of the press-run input pin (R189). -/
def State.setPressRun (s : State) (on : Bool) : State := s.modPlant fun p => { p with pressRun := on }

end Sys2Proof.Machine
end

