-- ==== Sys2Proof/Machine/Notice.lean ====
section
/-!
DEFINITION. ROLL NOTICE (01, R15 to R17): creating, identifying, updating and merging roll records.
-/
namespace Sys2Proof.Machine

/-! ### What a place holds (R15) -/

inductive Held where
  | record (h : Handle) (r : Roll)
  | noRecord
  | nothing
  | noPlace
deriving DecidableEq, Repr

/-- A loaded cart is at work at the stop: in the midst of setting its roll down, or in FAULT or MANUAL. What the stop's
sensor shows is then its roll, which has a record (R79, log 37). -/
def Plant.cartRollAt (p : Plant) (x : Nat) : Bool :=
  p.traffic.carts.any fun c =>
    c.atStop == some x && c.load.isSome && (c.state == .transfer || c.state == .fault || c.state == .manual)

/-- A stop: its PLACED or EXPECTED record, a roll with no record, or nothing. A stop may hold both, when a return to AUTO (R85) has
set a roll down where another is EXPECTED: the place then holds the PLACED record, and R15's rows are read for it alone (DESIGN
CHOICE, log 65). -/
def Plant.heldAtStop (p : Plant) (x : Nat) : Held :=
  match p.stop? x, p.stopKind x with
  | some s, some k =>
    match (match s.roll with
        | some h => some h
        | none => s.expected) with
    | some h =>
      match p.roll? h with
      | some r => .record h r
      | none => .nothing
    | none => if holdsRolls k = true ∧ p.sensor x = true ∧ p.cartRollAt x = false then .noRecord else .nothing
  | _, _ => .noPlace

def Plant.heldOnArm (p : Plant) (n : Nat) (m : Arm) : Held :=
  match p.arm? n m with
  | none => .noPlace
  | some a =>
    match a.roll with
    | .record h =>
      match p.roll? h with
      | some r => .record h r
      | none => .nothing
    | .unrecorded => .noRecord
    | .none => .nothing

/-- What a notice's place holds (R15). A place that is neither a stop nor an arm, as a configured stand with an arm byte that
names no arm, is NO_PLACE (DESIGN CHOICE, log 40). -/
def Plant.heldAt (p : Plant) : Place → Held
  | .stop x => p.heldAtStop x
  | .arm n m => p.heldOnArm n m
  | .raw _ _ => .noPlace

/-! ### Fields (R17) -/

/-- The columns of R17's table. -/
inductive FieldMode where
  | free | claimed | fixed
deriving DecidableEq, Repr

def Roll.fieldMode (r : Roll) : FieldMode :=
  match r.state with
  | .expected => if r.claim = .none then .free else .claimed
  | .placed => if r.claim = .none then .free else .claimed
  | .carried => .claimed
  | .mounted => .claimed
  | .ready => .claimed
  | .run => .fixed
  | .butt => .fixed
  | .shipped => .fixed

def newer (new old : Option Nat) : Option Nat := if new.isSome then new else old
def fill (new old : Option Nat) : Option Nat := if old.isSome then old else new

/-- The present fields of a notice applied to a record; `spin` keeps the diameter of a roll whose arm is in SPIN. -/
def Roll.applyFields (r : Roll) (s : Snapshot) (spin : Bool) : Roll :=
  let r' :=
    match r.fieldMode with
    | .free =>
      { r with grade := newer s.grade r.grade, width := newer s.width r.width, core := s.core.getD r.core,
               diam := newer s.diam r.diam, dock := newer s.dock r.dock }
    | .claimed =>
      { r with grade := fill s.grade r.grade, width := fill s.width r.width, core := s.core.getD r.core,
               diam := newer s.diam r.diam, dock := newer s.dock r.dock }
    | .fixed =>
      { r with grade := fill s.grade r.grade, width := fill s.width r.width,
               diam := fill s.diam r.diam, dock := fill s.dock r.dock }
  if spin then { r' with diam := r.diam } else r'

/-- The record's arm is in SPIN. -/
def Plant.spinning (p : Plant) (r : Roll) : Bool :=
  match r.loc with
  | .arm n m =>
    match p.arm? n m with
    | some a => a.state == .spin
    | none => false
  | .stop _ => false
  | .cart _ => false
  | .link _ => false

def Plant.applyNotice (p : Plant) (h : Handle) (s : Snapshot) : Plant :=
  p.modRoll h fun r => r.applyFields s (p.spinning r)

/-- R16: the record takes the roll number and is unknown no longer, and the fields are applied. -/
def Plant.identify (p : Plant) (h : Handle) (s : Snapshot) : Plant :=
  (p.applyNotice h s).modRoll h fun r => { r with num := some s.num, unknown := false }

/-! ### A record for a roll that had none (R15, R17, R18, R124, R146, R163) -/

/-- The record state that an arm's state gives (R18). -/
def ArmState.rollState : ArmState → RollState
  | .empty => .mounted
  | .mounted => .mounted
  | .ready => .ready
  | .spin => .ready
  | .run => .run
  | .butt => .butt

def recordFor (h : Handle) : RollRef → RollRef
  | .unrecorded => .record h
  | .record k => .record k
  | .none => .none

/-- The stand's folder roll and the old rolls of its marks name the new record in place of unrecorded (R163). -/
def State.recordFolder (s : State) (n : Nat) (h : Handle) : State :=
  s.modWasteStand n fun w =>
    { w with folder := recordFor h w.folder, marks := w.marks.map fun m => { m with old := recordFor h m.old } }

/-- A roll with no record at a stop takes the record: PLACED there. -/
def State.recordAtStop (s : State) (x : Nat) (h : Handle) : State :=
  s.modPlant fun p =>
    ((p.modRoll h fun r => { r with state := .placed, loc := .stop x }).placeAt x h).autoStow x

/-- An unrecorded arm takes the record; a butt already seen stopped asks for its UNLOAD, after a ROLL NOTICE by R146 and after
a resurvey by choice (DESIGN CHOICE, log 48). -/
def State.recordOnArm (s : State) (n : Nat) (m : Arm) (h : Handle) : State :=
  match s.plant.arm? n m with
  | none => s
  | some a =>
    let s := s.modPlant fun p =>
      (p.modRoll h fun r => { r with state := a.state.rollState, loc := .arm n m }).modArm n m fun a =>
        { a with roll := .record h }
    let s := if a.state = .run ∨ a.state = .butt then s.recordFolder n h else s
    let s := if a.state = .butt then s.modPlant fun p => p.modStand n fun st =>
      { st with oldRoll := recordFor h st.oldRoll } else s
    if a.state = .butt ∧ a.stopped = true then s.modPlant fun p => p.unloadOrPend n m else s

def State.recordAt (s : State) (pl : Place) (h : Handle) : State :=
  match pl with
  | .stop x => s.recordAtStop x h
  | .arm n m => s.recordOnArm n m h
  | .raw _ _ => s

/-! ### Merging (R17) -/

def swapH (u x h : Handle) : Handle := if h = u then x else h
def swapO (u x : Handle) (o : Option Handle) : Option Handle := o.map (swapH u x)
def swapR (u x : Handle) : RollRef → RollRef
  | .record h => .record (swapH u x h)
  | .unrecorded => .unrecorded
  | .none => .none

/-- Every block holding u's handle is given x's (R17). -/
def Plant.swapHandles (p : Plant) (u x : Handle) : Plant :=
  let arm (a : ArmRec) : ArmRec := { a with roll := swapR u x a.roll }
  { p with
    supply := { p.supply with
      holds := p.supply.holds.map fun h => { h with roll := swapH u x h.roll }
      links := p.supply.links.map fun l =>
        { l with out := { l.out with roll := swapO u x l.out.roll }, inb := { l.inb with roll := swapO u x l.inb.roll } } }
    traffic := { p.traffic with
      stops := p.traffic.stops.map fun s => { s with roll := swapO u x s.roll, expected := swapO u x s.expected }
      carts := p.traffic.carts.map fun c => { c with load := swapO u x c.load } }
    sched := { p.sched with queue := p.sched.queue.map fun t => { t with roll := swapH u x t.roll } }
    splice := { p.splice with
      stands := p.splice.stands.map fun s =>
        { s with armA := arm s.armA, armB := arm s.armB, oldRoll := swapR u x s.oldRoll } } }

def WasteUnit.swapHandles (w : WasteUnit) (u x : Handle) : WasteUnit :=
  { w with stands := w.stands.map fun s =>
      { s with folder := swapR u x s.folder
               marks := s.marks.map fun m => { m with old := swapR u x m.old, new := swapR u x m.new } } }

/-- What X takes over from U (R17). -/
def Roll.takeOver (x u : Roll) : Roll :=
  let residue := x.runResidue + u.runResidue
  { x with
    state := u.state, loc := u.loc, prepared := x.prepared || u.prepared, part := x.part || u.part
    runMetres := min Config.max32 (x.runMetres + u.runMetres + residue / 1000000), runResidue := residue % 1000000
    copies := satAdd Config.max32 x.copies u.copies, waste := satAdd Config.max32 x.waste u.waste }

/-- The DOCK stop that expects a record loses it (R17). -/
def Plant.unexpect (p : Plant) (h : Handle) : Plant :=
  { p with traffic := { p.traffic with
      stops := p.traffic.stops.map fun s => { s with expected := if s.expected = some h then none else s.expected } } }

/-- X takes the place of the unknown record U, which is freed (R17). -/
def State.merge (s : State) (x u : Handle) (ru : Roll) : State :=
  (s.modPlant fun p =>
    (((p.unexpect x).modRoll x fun r => r.takeOver ru).swapHandles u x).freeRoll u).modWaste fun w => w.swapHandles u x

/-- X EXPECTED at a DOCK stop (R17). -/
def Plant.expectedAtDock (p : Plant) (r : Roll) : Bool :=
  match r.state, r.loc with
  | .expected, .stop x => p.stopKind x == some .dock
  | _, _ => false

/-- The named place is the record's own location. -/
def Roll.isAt (r : Roll) : Place → Bool
  | .stop x => r.loc == .stop x
  | .arm n m => r.loc == .arm n m
  | .raw _ _ => false

/-! ### The notice -/

/-- The roll number is held by no record (R15). An EXPECTED record is a taken place even where it is unknown (log 21). -/
def State.noticeNew (s : State) (pl : Place) (sn : Snapshot) : State :=
  let conflict (why : Nat) : State := s.event (.rollConflict sn.num pl why)
  match s.plant.heldAt pl with
  | .record h r =>
    if r.unknown = true ∧ r.state ≠ .expected then s.modPlant fun p => p.identify h sn
    else conflict Reason.placeTaken
  | .noRecord =>
    match s.plant.createRoll (sn.roll s.plant.core .placed (.stop 0) .none false) with
    | some (h, p) => ({ s with plant := p }).recordAt pl h
    | none => s.event (.tableFull sn.num pl)
  | .nothing =>
    match pl with
    | .stop x =>
      if (s.plant.stopKind x = some .dock ∨ s.plant.stopKind x = some .inn) ∧ s.plant.sensor x = false then
        match s.plant.createRoll (sn.roll s.plant.core .expected (.stop x) .none false) with
        | some (h, p) => { s with plant := p.modStop x fun st => { st with expected := some h } }
        | none => s.event (.tableFull sn.num pl)
      else conflict Reason.notReceiving
    | .arm _ _ => conflict Reason.notReceiving
    | .raw _ _ => conflict Reason.noPlace
  | .noPlace => conflict Reason.noPlace

/-- The roll number is held by record X (R17). -/
def State.noticeHeld (s : State) (pl : Place) (sn : Snapshot) (x : Handle) : State :=
  match s.plant.roll? x with
  | none => s
  | some r =>
    let s := s.modPlant fun p => p.applyNotice x sn
    if r.isAt pl then s
    else
      match s.plant.heldAt pl with
      | .record u ru =>
        if ru.unknown = true ∧ ru.state ≠ .expected ∧ s.plant.expectedAtDock r = true then s.merge x u ru
        else s.event (.rollConflict sn.num pl Reason.elsewhere)
      | .noRecord =>
        if s.plant.expectedAtDock r then (s.modPlant fun p => p.unexpect x).recordAt pl x
        else s.event (.rollConflict sn.num pl Reason.elsewhere)
      | .nothing => s.event (.rollConflict sn.num pl Reason.elsewhere)
      | .noPlace => s.event (.rollConflict sn.num pl Reason.noPlace)

/-- The largest roll number (R2). -/
def maxRollNo : Nat := 999999999999

/-- ROLL NOTICE (R15). -/
def State.takeNotice (s : State) (f : Frame) : State :=
  let pl := f.noticePlace
  let sn := f.noticeSnapshot.ranged
  if sn.num = 0 ∨ maxRollNo < sn.num then s.event (.rollConflict sn.num pl Reason.badNumber)
  else
    match s.plant.holderOf sn.num with
    | none => s.noticeNew pl sn
    | some x => s.noticeHeld pl sn x

end Sys2Proof.Machine
end

