-- ==== Sys2Proof/Machine/Carts.lean ====
section
/-!
DEFINITION. What field events and timers do to sections, stops and carts (04): occupancy (R66), tag reads (R67, R76, R84,
R85), departures (R75), the three cart timers (R75, R78, R82) and lost modules (R86, R101).
-/
namespace Sys2Proof.Machine

def Plant.sectionState? (p : Plant) (n : Nat) : Option SectionState :=
  match p.section? n with
  | some s => some s.state
  | none => none

/-! ### Occupancy (R66, R84) -/

/-- An occupancy sensor turns present: a FREE section where no cart is expected becomes BLOCKED. -/
def Plant.occupancyOn (p : Plant) (n : Nat) : Plant :=
  match p.section? n with
  | some s => if s.state = .free ∧ p.someCartExpected n = false then p.blockSection n Reason.occupancy else p
  | none => p

/-- The section of a MANUAL cart is freed when its sensor clears (R84). -/
def Plant.manualLeaves (p : Plant) (n cart : Nat) : Plant :=
  match p.cart? cart with
  | some c =>
    if c.state = .manual then
      (p.releaseSections cart [n]).modCart cart fun c => { c with held := c.held.filter (· != n) }
    else p
  | none => p

/-- An occupancy sensor turns clear: a BLOCKED section in which no cart is expected becomes FREE. -/
def Plant.occupancyOff (p : Plant) (n : Nat) : Plant :=
  match p.section? n with
  | some s =>
    match s.state with
    | .blocked => if p.someCartExpected n then p else p.freeSection n
    | .occupied c => p.manualLeaves n c
    | .reserved _ => p
    | .free => p
  | none => p

def Plant.occupancyChanged (p : Plant) (n : Nat) (on : Bool) : Plant :=
  if on then p.occupancyOn n else p.occupancyOff n

/-! ### Tag reads at sections (R67, R84) -/

/-- The load flag of a read is noted (R67, R76). -/
def Plant.noteLoad (p : Plant) (cart : Nat) (loaded : Bool) : Plant :=
  p.modCart cart fun c => { c with loadFlag := loaded }

/-- The transit timer starts again at a confirmation (R78). -/
def Plant.confirmTransit (p : Plant) (cart : Nat) : Plant :=
  p.modCart cart fun c => if c.state = .running then { c with transit := some (p.now + Config.transitWait) } else c

/-- Entry confirmed: the section is OCCUPIED, those behind it are FREE, the position follows (R67, R71, R78). -/
def Plant.confirmEntry (p : Plant) (c : Cart) (n : Nat) : Plant :=
  let behind := c.held.takeWhile (· != n)
  let p := p.modSection n fun s => { s with state := .occupied c.num }
  let p := (p.modCart c.num fun c => { c with held := c.held.drop behind.length }).releaseSections c.num behind
  (p.foundIn c.num n).confirmTransit c.num

/-- A section held by cart k is entered by another: BLOCKED, and k enters FAULT (R67). -/
def Plant.entryConflict (p : Plant) (n k : Nat) : Plant :=
  (p.blockSection n Reason.unexpectedCart).enterFault k .unexpected

/-- A cart in AUTO read where it is not expected enters FAULT there; the transfer output of the stop it stood at is turned
off (R67, R83). R85 leaves a cart already in FAULT in FAULT until it is read at a stop, and R67 has every such cart enter FAULT: the
model goes by R67 for it too, so that its position follows and a second CART_FAULT is sent (DESIGN CHOICE, log 70). -/
def Plant.unexpectedIn (p : Plant) (cart n : Nat) : Plant :=
  match p.cart? cart with
  | some c => if c.expectedIn n then p else ((p.transferOff c).foundIn cart n).enterFault cart .unexpected
  | none => p

/-- A read of a cart in MANUAL, driven by hand into a section (R84). -/
def Plant.manualIn (p : Plant) (cart n : Nat) : Plant :=
  let p :=
    match p.sectionState? n with
    | some .free => p.modSection n fun s => { s with state := .occupied cart, level := .stop }
    | some (.reserved k) => if k = cart then p else p.entryConflict n k
    | some (.occupied k) => if k = cart then p else p.entryConflict n k
    | some .blocked => p
    | none => p
  p.foundIn cart n

/-- A read reporting MANUAL for a cart that is not in MANUAL puts it there; otherwise its position follows (R84). -/
def Plant.manualRead (p : Plant) (c : Cart) (move : Plant → Plant) : Plant :=
  if c.state = .manual then move p else
    let p := move (p.enterManual c)
    p.event (.cartManual c.num (p.cartPos c.num))

/-- A read in AUTO at a section's entry, by the section's state (R67). -/
def Plant.autoIn (p : Plant) (cart n : Nat) : Plant :=
  match p.sectionState? n with
  | some (.reserved k) =>
    if k = cart then
      match p.cart? cart with
      | some c => if c.state = .fault then p.foundIn cart n else p.confirmEntry c n
      | none => p
    else (p.entryConflict n k).unexpectedIn cart n
  | some (.occupied k) => if k = cart then p else (p.entryConflict n k).unexpectedIn cart n
  | some .free => (p.blockSection n Reason.unexpectedCart).unexpectedIn cart n
  | some .blocked => p.unexpectedIn cart n
  | none => p

/-- A tag read at a section's entry (R67). A cart recorded in MANUAL is driven by hand whatever the read reports, since
AUTO is taken only at a stop (R85). -/
def Plant.sectionRead (p : Plant) (n cart : Nat) (manual loaded : Bool) : Plant :=
  let p := p.noteLoad cart loaded
  match p.cart? cart with
  | some c =>
    if manual = true ∨ c.state = .manual then p.manualRead c fun p => p.manualIn cart n
    else p.autoIn cart n
  | none => p.autoIn cart n

/-! ### Tag reads at stops (R76, R84, R85) -/

/-- The arrival is confirmed: the sections are released, the point goes back to RING; then the cart parks, is IDLE, or
starts on the leg kept under R77 (R71, R76). -/
def Plant.arrive (p : Plant) (c : Cart) (x : Nat) : Plant :=
  let p := ((p.releaseSections c.num c.held).setPoint x .ring).foundAt c.num x
  p.modCart c.num fun c =>
    { c with state := p.restState c, held := [], transit := none, leg := none, queued := none }

/-- The arrival of a cart that holds a kept leg: STARTING at once on that leg, unless the leg ends where it stands. -/
def Plant.arriveKept (p : Plant) (c : Cart) (x : Nat) (kept : Leg) : Plant :=
  let q := p.arrive c x
  if kept.stop = x then q
  else q.modCart c.num fun c => { c with state := .starting, leg := some kept }

/-- The cart is running to this stop (R76). A HELD cart counts: one whose leg ends at the stop and that is read there has arrived, and
is no stray cart (DESIGN CHOICE, log 69). -/
def Cart.runningTo (c : Cart) (x : Nat) : Bool :=
  (c.state == .running || c.state == .held) && c.atStop != some x &&
    (match c.leg with
     | some l => l.stop == x
     | none => false)

/-- A read in AUTO at a stop of a cart that is in neither FAULT nor MANUAL (R76, R80). -/
def Plant.autoAtStop (p : Plant) (c : Cart) (x : Nat) : Plant :=
  if c.runningTo x then
    match c.queued with
    | some kept => p.arriveKept c x kept
    | none => p.arrive c x
  else if c.atStop = some x then p.checkTransfer x
  else ((p.transferOff c).foundAt c.num x).enterFault c.num .unexpected

/-! ### The return to AUTO (R85) -/

/-- The cart is IDLE at the stop, its sections are released, and CART_AUTO is sent. -/
def Plant.backInAuto (p : Plant) (cart x : Nat) : Plant :=
  let p := (p.releaseSections cart (p.sectionsHeldBy cart)).foundAt cart x
  let p := p.modCart cart fun c => { c with state := .idle, held := [] }
  p.event (.cartAuto cart (p.cartPos cart))

/-- The cart's side of "anything else": a roll with no record gets an unknown one, a record with no roll is lost. A Place
names no cart, so ROLL_LOST and TABLE_FULL carry the stop the cart stands at (R18, R21, R85; DESIGN CHOICE, log 34). -/
def Plant.reconcileCart (p : Plant) (cart : Nat) : Plant :=
  match p.cart? cart with
  | none => p
  | some c =>
    match c.load with
    | some h => if c.loadFlag then p else p.loseRoll h (.stop (c.atStop.getD 0))
    | none =>
      if c.loadFlag then
        match p.createRoll (unknownRoll p.core .carried (.cart cart)) with
        | some (h, p) => p.modCart cart fun c => { c with load := some h }
        | none => p.event (.tableFull 0 (.stop (c.atStop.getD 0)))
      else p

/-- The rows of R85's table at a stop that is not a STAND stop. A roll taken to be set down in a slot that a task was bound
to takes the slot from it, as an arrival would (R25; DESIGN CHOICE, log 35). One taken to be set down at the OUT stop of a CARRYING
link is the shipment's roll placed there: READY goes out (R59). Its SHIP task, not yet begun, stays (DESIGN CHOICE, log 64). -/
def Plant.reconcileStop (p : Plant) (c : Cart) (x : Nat) : Plant :=
  match p.stop? x, p.stopKind x with
  | some s, some k =>
    let shown := p.sensor x
    if s.roll.isSome = true ∧ c.load = none ∧ shown = false ∧ c.loadFlag = true then p.moveToCart x c
    else if s.roll = none ∧ c.load.isSome = true ∧ shown = true ∧ c.loadFlag = false ∧
        (holdsRolls k = true ∨ k = .scrap) then
      let p := p.moveToStop x c
      let p := if k = .slot then p.rechooseBound x else p
      ((p.prepArrival x).shipmentPlaced x).autoStow x
    else
      let p :=
        if holdsRolls k = true ∧ shown ≠ s.roll.isSome then if shown then p.stopArrival x else p.stopRemoval x else p
      p.reconcileCart c.num
  | _, _ => p

/-- The rows of R85's table at a STAND stop, for the arm named by the interrupted transfer (R85). `Cart.arm` is cleared when a
transfer completes, when the cart leaves its stop and when it is back in AUTO; with no interrupted transfer the cart's side alone
is reconciled (DESIGN CHOICE, log 19). -/
def State.reconcileStand (s : State) (c : Cart) (x n : Nat) : State :=
  match c.arm with
  | none => s.modPlant fun p => p.reconcileCart c.num
  | some m =>
    match s.plant.arm? n m with
    | none => s.modPlant fun p => p.reconcileCart c.num
    | some a =>
      let shown := s.plant.armLoaded n m
      if a.state = .butt ∧ c.load = none ∧ shown = false ∧ c.loadFlag = true then s.modPlant fun p => p.moveToCart x c
      else if a.state = .empty ∧ c.load.isSome = true ∧ shown = true ∧ c.loadFlag = false then
        s.modPlant fun p => p.moveToStop x c
      else
        let s := if shown ≠ (a.state != .empty) then s.armInput n m shown else s
        s.modPlant fun p => p.reconcileCart c.num

/-- A loaded cart back in AUTO: the reservation is released and a STOW asked for; the mark of a roll with no record. The
interrupted transfer has been reconciled, so its arm is forgotten. -/
def Plant.afterAuto (p : Plant) (cart : Nat) : Plant :=
  let p := p.modCart cart fun c => { c with arm := none }
  match p.cart? cart with
  | none => p
  | some c =>
    match c.load with
    | some h =>
      ((p.modRoll h fun r => { r with claim := .none }).modCart cart fun c => { c with noRecord := false }).onCartOrPend
        cart
    | none => p.modCart cart fun c => { c with noRecord := c.loadFlag }

/-- A cart in FAULT or MANUAL is read in AUTO at a stop (R85). -/
def State.returnToAuto (s : State) (cart x : Nat) : State :=
  let s := s.modPlant fun p => p.backInAuto cart x
  match s.plant.cart? cart with
  | none => s
  | some c =>
    let s :=
      match s.plant.standOfStop x with
      | some n => s.reconcileStand c x n
      | none => s.modPlant fun p => p.reconcileStop c x
    s.modPlant fun p => p.afterAuto cart

/-- A tag read at a stop (R76). -/
def State.stopRead (s : State) (x cart : Nat) (manual loaded : Bool) : State :=
  let s := s.modPlant fun p => p.noteLoad cart loaded
  match s.plant.cart? cart with
  | none => s
  | some c =>
    if manual then s.modPlant fun p => p.manualRead c fun p => p.foundAt cart x
    else if c.state = .fault ∨ c.state = .manual then s.returnToAuto cart x
    else s.modPlant fun p => p.autoAtStop c x

/-! ### Departure and timers (R75, R78, R82) -/

/-- The departing cart leaves its stop: its section is OCCUPIED and is its position (R75). -/
def Plant.depart (p : Plant) (c : Cart) (x n : Nat) : Plant :=
  ((((p.modSection n fun s => { s with state := .occupied c.num }).leaveStop c.num x).modCart c.num fun c =>
    { c with pos := some (.sec n) }).confirmTransit c.num)

/-- The cart that a stop's reader reports gone (R75; FAULT and MANUAL carts and late reports, log 30). -/
def Plant.stopGone (p : Plant) (x cart : Nat) : Plant :=
  match p.cart? cart, p.stopSec x with
  | some c, some n =>
    if c.atStop = some x then
      if c.state = .manual then (p.leaveStop cart x).modCart cart fun c => { c with arm := none }
      else if c.state = .fault then
        let p := (p.leaveStop cart x).modCart cart fun c => { c with arm := none }
        if c.held.contains n then p.modCart cart fun c => { c with pos := some (.sec n) } else p
      else if c.state = .running ∨ c.state = .held then
        if c.held.head? = some n then p.depart c x n else p
      else p
    else p.leaveStop cart x
  | _, _ => p

/-- The start wait ends: the warning goes off and the level decides between RUNNING and HELD (R75). -/
def Plant.startWaitEnd (p : Plant) (cart : Nat) : Plant :=
  match p.cart? cart with
  | none => p
  | some c =>
    if c.state = .starting ∧ reached? p.now c.startWait = true then
      (p.warningOff c).modCart cart fun c => { c with state := .held, startWait := none, startsFrom := none }
    else p

def Plant.transitEnd (p : Plant) (cart : Nat) : Plant :=
  match p.cart? cart with
  | none => p
  | some c =>
    if c.state = .running ∧ reached? p.now c.transit = true then p.enterFault cart .transit else p

def Plant.transferEnd (p : Plant) (cart : Nat) : Plant :=
  match p.cart? cart with
  | none => p
  | some c =>
    if c.state = .transfer ∧ reached? p.now c.transfer = true then p.enterFault cart .transfer else p

/-! ### Lost modules (R86, R101, R188) -/

/-- A cart waiting to start whose section is taken from it waits for it again (R86, log 28). -/
def Plant.startAgain (p : Plant) (cart : Nat) : Plant :=
  match p.cart? cart with
  | some c =>
    if c.held.isEmpty = true ∧ c.atStop.isSome = true ∧ (c.state = .starting ∨ c.state = .running ∨ c.state = .held) then
      (p.warningOff c).modCart cart fun c =>
        { c with state := .starting, startWait := none, startsFrom := none, transit := none }
    else p
  | none => p

/-- A section on a lost module (R86). One that is BLOCKED already stays so, and no SECTION_BLOCKED is sent for it (DESIGN CHOICE,
log 47). -/
def Plant.loseSection (p : Plant) (n : Nat) : Plant :=
  match p.sectionState? n with
  | some .free => p.blockSection n Reason.module
  | some (.reserved c) => (p.blockSection n Reason.module).startAgain c
  | some (.occupied c) => (p.blockSection n Reason.module).enterFault c .module
  | some .blocked => p
  | none => p

/-- A stop on a lost module: its outputs fall to off, and a cart STARTING or in TRANSFER there enters FAULT (R86). One that is HELD
or RUNNING on its spur, its departure not yet confirmed, is in neither row and is left as it is (DESIGN CHOICE, log 28). -/
def Plant.loseStop (p : Plant) (x : Nat) : Plant :=
  let p :=
    match p.traffic.carts.find? fun c => c.atStop == some x && (c.state == .starting || c.state == .transfer) with
    | some c => p.enterFault c.num .module
    | none => p
  p.modStop x fun s => { s with transfer := none, warning := false }

/-- Tasks whose stop is on a lost module (R25, R29, R101). -/
def Plant.loseTasks (p : Plant) (x : Nat) : Plant :=
  let p := forEach (p.queueOrder.filter fun t => t.state == .assigned && p.fromStop t == some x)
    (fun p t =>
      match t.cart with
      | some c => (p.backToWaiting t.num).giveParkLeg c
      | none => p) p
  if p.stopKind x = some .slot then p.rechooseBound x else p

def Plant.sectionsOn (p : Plant) (m : Nat) : List Nat :=
  (oneTo p.ringSize).filter fun n => (p.sectionCfg n).map (·.modNo) == some m

def Plant.stopsOn (p : Plant) (m : Nat) : List Nat := (p.stopCfgs.filter (·.modNo == m)).map (·.num)

/-- The track on a lost module is taken out of service (R86, R101). Where several tasks are bound to its stops, no rule orders the new
choices of R29 and the returns to WAITING of R101: the model goes stop by stop, in increasing stop number (DESIGN CHOICE, log 67). -/
def Plant.trackLost (p : Plant) (m : Nat) : Plant :=
  let p := forEach (p.sectionsOn m) Plant.loseSection p
  let p := forEach (p.stopsOn m) Plant.loseStop p
  forEach (p.stopsOn m) Plant.loseTasks p

/-- The missed-scan count has reached 3: the module is lost; in RUN its track is taken out of service (R188). -/
def Plant.loseModule (p : Plant) (m : Nat) : Plant :=
  match p.module? m with
  | some r =>
    if Config.missedCap ≤ r.missed ∧ r.lost = false then
      let p := p.modModule m fun r => { r with lost := true }
      if p.inRun then (p.trackLost m).settle else p
    else p
  | none => p

/-- A BLOCKED section of a module surveyed again is FREE if its sensor is clear and no cart is expected there (R86). -/
def Plant.sectionBack (p : Plant) (n : Nat) : Plant :=
  match p.sectionState? n with
  | some .blocked => if p.occupied n = true ∨ p.someCartExpected n = true then p else p.freeSection n
  | _ => p

/-- A stop of a module surveyed again is reported as R19 lays down. The module is un-lost before its stops are reported, so the
conveyor of a CONVEYING link runs again when its OUT stop shows no roll, and the roll is taken as shipped (R6, R60), not as a removal
(DESIGN CHOICE, log 66). -/
def Plant.stopBack (p : Plant) (x : Nat) : Plant :=
  match p.stop? x, p.stopKind x with
  | some s, some k =>
    if holdsRolls k = false ∨ p.sensorHeld x = true then p
    else if p.sensor x then if s.roll.isSome then p else p.stopArrival x
    else p.stopRemoval x
  | _, _ => p

def Plant.trackBack (p : Plant) (m : Nat) : Plant :=
  forEach (p.sectionsOn m) Plant.sectionBack (forEach (p.stopsOn m) Plant.stopBack p)

end Sys2Proof.Machine
end

