-- ==== Sys2Proof/Machine/Window.lean ====
section
/-!
DEFINITION. The speed window (R107): for each stand in increasing number the steps of R108, then those of R130; after the
stands the mark queues are brought up to date (R163).
-/
namespace Sys2Proof.Machine

/-! ### R108: the web measurement unit -/

/-- Pulses lost at the expiry of the speed window: COAST, and PULSE_LOST (R115). -/
def State.losePulses (s : State) (n : Nat) (m : Arm) : State :=
  match s.plant.arm? n m with
  | none => s
  | some a =>
    let e := a.est.enterCoast (s.plant.figures a) (s.webPos n)
    (s.modArm n m fun a => { a with est := e }).event (.pulseLost n m (e.dFilt.getD 0))

/-- The pulse-loss or the coasting step of the RUN arm (R115, R116). -/
def State.estimatorWindow (s : State) (n : Nat) (m : Arm) (advance : Nat) : State :=
  match s.plant.arm? n m with
  | none => s
  | some a =>
    if a.est.mode = .coast then
      s.modArm n m fun a => { a with est := a.est.coast (s.plant.figures a) (s.webPos n) advance }
    else if a.est.pulseGone (s.speed n) s.plant.nowUs then s.losePulses n m
    else s

/-- Run length: whole metres, saturating, and the residue below one metre (R11). -/
def Roll.credit (r : Roll) (advance : Nat) (d : Option Nat) : Roll :=
  let um := r.runResidue + advance
  { r with runMetres := satAdd Config.max32 r.runMetres (um / 1000000), runResidue := um % 1000000,
           diam := match d with | some d => some d | none => r.diam }

/-- What the window reports to the roll table: D_filt in MEASURING or COAST only (R11, R108). -/
def Estimator.reported (e : Estimator) : Option Nat :=
  match e.mode with
  | .measuring => e.dFilt
  | .coast => e.dFilt
  | .seeding => none
  | .none => none

def State.creditWindow (s : State) (n : Nat) (m : Arm) (advance : Nat) : State :=
  s.modPlant fun p =>
    match p.arm? n m, p.armHandle n m with
    | some a, some h => p.modRoll h fun r => r.credit advance a.est.reported
    | _, _ => p

/-- The figures handed to the splice controller (R108, R117, R118). -/
def State.forecast (s : State) (n : Nat) : State :=
  s.modStand n fun st =>
    let remaining := st.runArm.bind fun m => s.plant.runningRemaining (st.arm m)
    { st with remaining := remaining, timeToSplice := timeToSplice remaining (s.speed n) }

def State.measureWindow (s : State) (n advance : Nat) : State :=
  (match (s.stand? n).bind (·.runArm) with
   | some m => (s.estimatorWindow n m advance).creditWindow n m advance
   | none => s).forecast n

/-! ### R130: the splice controller -/

/-- Step 1: the duties of the RUN arm and of a SPIN arm in ACCEL to PASTED (R127, R128). -/
def State.dutyStep (s : State) (n : Nat) : State :=
  match s.stand? n with
  | none => s
  | some st =>
    let s :=
      match st.runArm with
      | some m => s.modArm n m fun a => { a with brake := s.plant.runDuty n a }
      | none => s
    match st.armIn .spin with
    | some m =>
      if st.phase.abortable = true ∨ st.phase = .pasted then s.modArm n m fun a => { a with drive := s.driveDuty n a }
      else s
    | none => s

/-- The RUN arm's D_filt and the diameter at which run-out is reached (R144). -/
def State.runOutReached (s : State) (n : Nat) : Option (Arm × Nat) :=
  match s.stand? n, s.plant.standCfg n with
  | some st, some c =>
    match st.runArm with
    | some m =>
      match (st.arm m).est.dFilt with
      | some d =>
        if s.plant.pressRun = true ∧ d ≤ (s.plant.figures (st.arm m)).core + c.runOutMargin then some (m, d) else none
      | none => none
    | none => none
  | _, _ => none

/-- Step 2: run-out (R144). -/
def State.runOutStep (s : State) (n : Nat) : State :=
  match s.stand? n, s.runOutReached n with
  | some st, some (m, d) =>
    if st.runOut then s else (s.modStand n fun st => { st with runOut := true }).event (.runOut n m d)
  | _, _ => s

/-- Step 3: the minimum splice speed (R140). -/
def State.speedStep (s : State) (n : Nat) : State :=
  match s.plant.standCfg n with
  | some c => if s.speed n < c.minSpeed then s.abort n Reason.abortSpeed else s
  | none => s

/-- The running roll has reached its splice diameter (R135). -/
def Plant.atSpliceDiameter (p : Plant) (st : Stand) : Bool :=
  match st.runArm with
  | some m =>
    match (st.arm m).est.dFilt with
    | some d => d ≤ (p.gradeOr0 ((p.refRoll (st.arm m).roll).bind (·.grade))).ds
    | none => false
  | none => false

/-- Step 4: NONE may enter ACCEL (R133), MATCHED may enter ARMED (R135). -/
def State.phaseStep (s : State) (n : Nat) : State :=
  match s.stand? n, s.plant.standCfg n with
  | some st, some c =>
    if s.mayAccelerate n = true ∧ (st.timeToSplice ≤ c.accelLead ∨ st.spliceNow = true) then s.enterAccel n
    else if st.phase = .matched ∧ s.plant.atSpliceDiameter st = true then
      s.modStand n fun st => { st with phase := .armed }
    else s
  | _, _ => s

/-- Step 5: arms seen stopped (R141, R146). -/
def State.stoppedStep (s : State) (n : Nat) : State :=
  s.modPlant fun p => ((p.decelStopped n).buttStopped n .a).buttStopped n .b

/-- The roll will last the edition, as far as is known (R131, R132). -/
def rollLasts (remaining need : Option Nat) : Bool :=
  match need, remaining with
  | some w, some l => w ≤ l
  | _, _ => false

/-- The standby arm is EMPTY or BUTT (R131). -/
def Stand.standbyOpen (st : Stand) : Bool :=
  match st.standby with
  | some m => (st.arm m).state == .empty || (st.arm m).state == .butt
  | none => false

/-- The roll request conditions (R131). -/
def State.requestDue (s : State) (n : Nat) : Bool :=
  match s.stand? n, s.plant.standCfg n with
  | some st, some c =>
    st.running && s.inUse n && st.standbyOpen && !s.plant.standClaimed n && st.timeToSplice ≤ c.callLead &&
      (match s.press.edition.need n with
       | none => true
       | some w =>
         match st.remaining with
         | some l => l < w
         | none => false)
  | _, _ => false

/-- The reasons to withdraw a call (R132). -/
def State.withdrawDue (s : State) (n : Nat) : Bool :=
  match s.stand? n with
  | some st =>
    !st.running || !s.inUse n || !st.standbyOpen || s.press.edition.state == .complete ||
      rollLasts st.remaining (s.press.edition.need n)
  | none => false

/-- Step 6: the roll request and the withdrawal of a call (R30, R131, R132). -/
def State.requestStep (s : State) (n : Nat) : State :=
  let s :=
    match s.stand? n with
    | none => s
    | some st =>
      if s.requestDue n then
        let (p, a) := s.plant.rollRequest n (residualNeed (s.press.edition.need n) st.remaining)
        { s with plant := p.modStand n fun st => { st with requested := true, lastAnswer := some a } }
      else s.modStand n fun st => { st with requested := false }
  if s.withdrawDue n then s.modPlant fun p => p.withdrawCall n else s

/-- Step 7: the urgency of the stand's feed tasks (R90). -/
def Plant.urgencyStep (p : Plant) (n : Nat) : Plant :=
  match p.stand? n with
  | some st =>
    { p with sched := { p.sched with
        queue := updateIf (fun t => (t.kind == .feedPrep || t.kind == .feedMount) && t.stand == some n)
          (fun t => { t with urgency := st.timeToSplice }) p.sched.queue } }
  | none => p

def State.spliceWindow (s : State) (n : Nat) : State :=
  ((((((s.dutyStep n).runOutStep n).speedStep n).phaseStep n).stoppedStep n).requestStep n).modPlant fun p =>
    p.urgencyStep n

/-! ### The window -/

/-- One stand's share: its speed, and in RUN the steps of R108 and R130. -/
def State.standWindow (s : State) (n : Nat) : State :=
  match s.web? n with
  | none => s
  | some w =>
    let s := s.modWeb n WebStand.window
    if s.plant.lineRun then (s.measureWindow n w.advance).spliceWindow n else s

/-- The window has ended: SURVEY or RUN, and its 250 ms are over (R107). -/
def State.windowDue (s : State) : Bool :=
  (s.plant.node == .survey || s.plant.node == .run) && reached s.plant.now s.press.web.windowEnd

/-- PULSE_LOST by itself: the pulse-loss step of the expiry that is due, for the RUN arm of one stand, at the speed that
expiry finds; the web coasted here is not taken off again by the SPEED_WINDOW that follows (R107, R115, log 32). -/
def State.pulseLost (s : State) (n : Nat) : State :=
  match s.stand? n, s.web? n with
  | some st, some w =>
    match st.runArm with
    | some m =>
      if s.windowDue = true ∧ (st.arm m).est.pulseGone (speedOf w.advance) s.plant.nowUs = true then
        (s.losePulses n m).modArm n m fun a => { a with est := { a.est with coastFrom := some (s.webPos n) } }
      else s
    | none => s
  | _, _ => s

/-- An expiry of the speed window. -/
def State.speedWindow (s : State) : State :=
  if s.windowDue then
    let s := s.modPress fun p => { p with web := { p.web with windowEnd := p.web.windowEnd + Config.speedWindow } }
    let s := forEach (oneTo 4) State.standWindow s
    if s.plant.lineRun then (s.bringAll).modPlant fun p => p.pressStopNow.settle else s
  else s

end Sys2Proof.Machine
end

