-- ==== Sys2Proof/Machine/Loader.lean ====
section
/-!
DEFINITION. The configuration loader (11): reading the image (10 section 10.6), the six checks of R183 and the tables that
LOADING fills.
-/
namespace Sys2Proof.Machine

/-! ### The parts of the image (10 section 10.6) -/

/-- The counts of the header. -/
structure Counts where
  stands : Nat
  sections : Nat
  stops : Nat
  carts : Nat
  links : Nat
  modules : Nat
deriving DecidableEq, Repr

def countsOf (m : List Byte) : Counts :=
  { stands := fieldAt m 5 1, sections := fieldAt m 6 1, stops := fieldAt m 7 1, carts := fieldAt m 8 1,
    links := fieldAt m 9 1, modules := fieldAt m 10 1 }

def imageLength (m : List Byte) : Nat := fieldAt m 1 2

/-- Offsets of the first record of each part. -/
def gradeAt (i : Nat) : Nat := 14 + 8 * i
def standAt (i : Nat) : Nat := 142 + 45 * i
def Counts.sectionAt (c : Counts) (i : Nat) : Nat := 142 + 45 * c.stands + 4 * i
def Counts.stopAt (c : Counts) (i : Nat) : Nat := c.sectionAt c.sections + 6 * i
def Counts.cartAt (c : Counts) (i : Nat) : Nat := c.stopAt c.stops + 2 * i
def Counts.linkAt (c : Counts) (i : Nat) : Nat := c.cartAt c.carts + 5 * i
def Counts.moduleAt (c : Counts) (i : Nat) : Nat := c.linkAt c.links + 2 * i

/-- The length that the header's counts give, with the check. -/
def Counts.length (c : Counts) : Nat := c.moduleAt c.modules + 2

def kindOfCode (n : Nat) : StopKind :=
  if n = 1 then .slot else if n = 2 then .prep else if n = 3 then .stand else if n = 4 then .out
  else if n = 5 then .inn else if n = 6 then .dock else if n = 7 then .scrap else if n = 8 then .park else .unknown

def readGrade (m : List Byte) (o : Nat) : GradeCfg :=
  { caliper := fieldAt m o 1, ds := fieldAt m (o + 1) 2, minReturn := fieldAt m (o + 3) 2, tension := fieldAt m (o + 5) 2,
    lane := fieldAt m (o + 7) 1 }

def readStand (m : List Byte) (o : Nat) : StandCfg :=
  { num := fieldAt m o 1, standStop := fieldAt m (o + 1) 1, prepStop := fieldAt m (o + 2) 1,
    modNo := fieldAt m (o + 3) 1, callLead := fieldAt m (o + 4) 2, accelLead := fieldAt m (o + 6) 2,
    settleRevs := fieldAt m (o + 8) 1, minSpeed := fieldAt m (o + 9) 2, runOutMargin := fieldAt m (o + 11) 2,
    pathLen := fieldAt m (o + 13) 4, knifeOffset := fieldAt m (o + 17) 2, theta := fieldAt m (o + 19) 2,
    actuatorDelay := fieldAt m (o + 21) 4, pre := fieldAt m (o + 25) 2, post := fieldAt m (o + 27) 2,
    verifyLen := fieldAt m (o + 29) 4, k0 := fieldAt m (o + 33) 4, rpmMax := fieldAt m (o + 37) 2,
    torqueMax := fieldAt m (o + 39) 2, trimLen := fieldAt m (o + 41) 2, pulseWidth := fieldAt m (o + 43) 2 }

def readSection (m : List Byte) (o : Nat) : SectionCfg :=
  { modNo := fieldAt m o 1, occPoint := fieldAt m (o + 1) 1, tagPoint := fieldAt m (o + 2) 1,
    drivePoint := fieldAt m (o + 3) 1 }

def readStop (m : List Byte) (o : Nat) : StopCfg :=
  { num := fieldAt m o 1, kind := kindOfCode (fieldAt m (o + 1) 1), sec := fieldAt m (o + 2) 1,
    modNo := fieldAt m (o + 3) 1, firstPoint := fieldAt m (o + 4) 1, extra := fieldAt m (o + 5) 1 }

def readCart (m : List Byte) (o : Nat) : CartCfg := { num := fieldAt m o 1, parkStop := fieldAt m (o + 1) 1 }

def readLink (m : List Byte) (o : Nat) : LinkCfg :=
  { neighbour := fieldAt m o 1, outStop := fieldAt m (o + 1) 1, inStop := fieldAt m (o + 2) 1,
    convModule := fieldAt m (o + 3) 1, convPoint := fieldAt m (o + 4) 1 }

def readModule (m : List Byte) (o : Nat) : ModuleCfg := { address := fieldAt m o 1, points := fieldAt m (o + 1) 1 }

/-- Records read one after another, never more than the largest count R183 allows. -/
def readAll {α : Type} (cap n : Nat) (read : Nat → α) : List α := (List.range (min cap n)).map read

def imageOf (m : List Byte) : Image :=
  let c := countsOf m
  { cls := fieldAt m 3 1, node := fieldAt m 4 1, core := fieldAt m 11 2
    grades := readAll 16 16 fun i => readGrade m (gradeAt i)
    stands := readAll 4 c.stands fun i => readStand m (standAt i)
    sections := readAll 12 c.sections fun i => readSection m (c.sectionAt i)
    stops := readAll 40 c.stops fun i => readStop m (c.stopAt i)
    carts := readAll 4 c.carts fun i => readCart m (c.cartAt i)
    links := readAll 4 c.links fun i => readLink m (c.linkAt i)
    modules := readAll 16 c.modules fun i => readModule m (c.moduleAt i) }

/-! ### The checks (R183): each a condition and the offset of the field that fails it -/

abbrev Check := Bool × Nat

def firstFault (l : List Check) : Option Nat := (l.find? fun c => !c.1).map (·.2)

def inRange (m : List Byte) (off width lo hi : Nat) : Check := (lo ≤ fieldAt m off width && fieldAt m off width ≤ hi, off)

def checkFormat (m : List Byte) : List Check :=
  [(fieldAt m 0 1 == 1, 0), (fieldAt m 3 1 == 1 || fieldAt m 3 1 == 2, 3), (fieldAt m 13 1 == 0, 13),
   (imageLength m == (countsOf m).length, 1)]

/-- Two of these checks fail on no single field; the offset they carry is a free value (log 10). -/
def checkCount (m : List Byte) : List Check :=
  let c := countsOf m
  let line := fieldAt m 3 1 == 1
  [((if line then 1 ≤ c.stands && c.stands ≤ 4 else c.stands == 0), 5), (4 ≤ c.sections && c.sections ≤ 12, 6),
   (1 ≤ c.carts && c.carts ≤ 4, 8), (c.carts + 2 ≤ c.sections, Config.faultOffset 2),
   (1 ≤ c.stops && c.stops ≤ 40, 7),
   (((imageOf m).stops.filter (·.kind == .slot)).length ≤ 32, Config.faultOffset 1),
   (1 ≤ c.links && c.links ≤ 4, 9), (1 ≤ c.modules && c.modules ≤ 16, 10)]

def rangeGrade (m : List Byte) (o : Nat) : List Check :=
  [inRange m o 1 40 120, inRange m (o + 1) 2 800 3000, inRange m (o + 3) 2 0 20000, inRange m (o + 5) 2 50 2000,
   inRange m (o + 7) 1 0 3]

def rangeStand (m : List Byte) (o : Nat) : List Check :=
  [inRange m o 1 1 4, inRange m (o + 4) 2 60 3600, inRange m (o + 6) 2 20 300, inRange m (o + 8) 1 1 15,
   inRange m (o + 9) 2 500 5000, inRange m (o + 11) 2 10 300, inRange m (o + 13) 4 5000 150000,
   inRange m (o + 17) 2 200 5000, inRange m (o + 19) 2 0 999, inRange m (o + 21) 4 10000 250000,
   inRange m (o + 25) 2 0 10000, inRange m (o + 27) 2 0 30000, inRange m (o + 29) 4 1000 100000,
   inRange m (o + 33) 4 6553600 26214400, inRange m (o + 37) 2 100 1000, inRange m (o + 39) 2 50 2000,
   inRange m (o + 41) 2 100 5000, inRange m (o + 43) 2 50 500]

def rangeStop (m : List Byte) (o : Nat) : List Check :=
  [inRange m o 1 1 40, inRange m (o + 1) 1 1 8, (fieldAt m (o + 1) 1 != 1 || fieldAt m (o + 5) 1 ≤ 3, o + 5)]

/-- Every field within its range, in image order. -/
def checkRange (m : List Byte) : List Check :=
  let c := countsOf m
  [inRange m 4 1 1 30, inRange m 11 2 700 1600] ++
    ((List.range 16).flatMap fun i => rangeGrade m (gradeAt i)) ++
    ((List.range c.stands).flatMap fun i => rangeStand m (standAt i)) ++
    ((List.range c.stops).flatMap fun i => rangeStop m (c.stopAt i)) ++
    ((List.range c.carts).map fun i => inRange m (c.cartAt i) 1 1 4) ++
    ((List.range c.links).map fun i => inRange m (c.linkAt i) 1 1 30) ++
    ((List.range c.modules).flatMap fun i =>
      [inRange m (c.moduleAt i) 1 1 254, inRange m (c.moduleAt i + 1) 1 1 64])

/-- A module is configured, and a point is one of its points. -/
def imageModuleOk (i : Image) (n : Nat) : Bool := 1 ≤ n && n ≤ i.modules.length
def imagePointCount (i : Image) (n : Nat) : Nat := if n = 0 then 0 else ((i.modules[n - 1]?).map (·.points)).getD 0
def imagePointOk (i : Image) (n pt : Nat) : Bool := 1 ≤ pt && pt ≤ imagePointCount i n

/-- The points a stop takes: five, and two buttons more at a PREP stop (10 section 10.6). -/
def stopPoints (k : StopKind) : Nat := if k = .prep then 7 else 5

/-- Numbers that repeat an earlier one fail at their own offset. -/
def distinctFrom (l : List Nat) (at_ : Nat → Nat) : List Check :=
  l.zipIdx.map fun (n, i) => (!(l.take i).contains n, at_ i)

def imageRefStop (i : Image) (s : StopCfg) (o : Nat) : List Check :=
  [(1 ≤ s.sec && s.sec ≤ i.sections.length, o + 2), (imageModuleOk i s.modNo, o + 3),
   (imagePointOk i s.modNo s.firstPoint && imagePointOk i s.modNo (s.firstPoint + stopPoints s.kind - 1), o + 4)]

def imageRefSection (i : Image) (s : SectionCfg) (o : Nat) : List Check :=
  [(imageModuleOk i s.modNo, o), (imagePointOk i s.modNo s.occPoint, o + 1), (imagePointOk i s.modNo s.tagPoint, o + 2),
   (imagePointOk i s.modNo s.drivePoint, o + 3)]

/-- A STAND, PARK, IN or OUT stop names a configured stand, cart or link. -/
def imageRefExtra (i : Image) (s : StopCfg) : Bool :=
  match s.kind with
  | .stand => i.stands.any (·.num == s.extra)
  | .park => i.carts.any (·.num == s.extra)
  | .inn => 1 ≤ s.extra && s.extra ≤ i.links.length
  | .out => 1 ≤ s.extra && s.extra ≤ i.links.length
  | .slot => true
  | .prep => true
  | .dock => true
  | .scrap => true
  | .unknown => true

def imageStopIs (i : Image) (n : Nat) (p : StopCfg → Bool) : Bool :=
  match i.stops.find? (·.num == n) with
  | some s => p s
  | none => false

def imageRefLink (i : Image) (l : LinkCfg) (n o : Nat) : List Check :=
  [(imageStopIs i l.outStop fun s => s.kind == .out && s.extra == n, o + 1),
   (imageStopIs i l.inStop fun s => s.kind == .inn && s.extra == n, o + 2)]

/-- The references, in the order of R183; the check for a SCRAP stop fails on no single field (log 10). -/
def checkReference (m : List Byte) : List Check :=
  let i := imageOf m
  let c := countsOf m
  distinctFrom (i.stops.map (·.num)) c.stopAt ++
    (i.stops.zipIdx.flatMap fun (s, k) => imageRefStop i s (c.stopAt k)) ++
    (i.sections.zipIdx.flatMap fun (s, k) => imageRefSection i s (c.sectionAt k)) ++
    (i.stands.zipIdx.map fun (s, k) => (imageModuleOk i s.modNo && 6 ≤ imagePointCount i s.modNo, standAt k + 3)) ++
    (i.stops.zipIdx.map fun (s, k) => (imageRefExtra i s, c.stopAt k + 5)) ++
    [(i.stops.any (·.kind == .scrap), Config.faultOffset 3)] ++
    (i.carts.zipIdx.map fun (t, k) =>
      (imageStopIs i t.parkStop fun s => s.kind == .park && s.extra == t.num, c.cartAt k + 1)) ++
    (i.stands.zipIdx.flatMap fun (s, k) =>
      [(imageStopIs i s.standStop fun x => x.kind == .stand && x.extra == s.num, standAt k + 1),
       (imageStopIs i s.prepStop fun x => x.kind == .prep, standAt k + 2)]) ++
    (i.links.zipIdx.flatMap fun (l, k) => imageRefLink i l (k + 1) (c.linkAt k)) ++
    distinctFrom (i.links.map (·.neighbour)) c.linkAt ++
    (i.links.zipIdx.map fun (l, k) => (l.neighbour != i.node, c.linkAt k)) ++
    (i.links.zipIdx.flatMap fun (l, k) =>
      [(imageModuleOk i l.convModule, c.linkAt k + 3), (imagePointOk i l.convModule l.convPoint, c.linkAt k + 4)]) ++
    distinctFrom (i.stands.map (·.num)) standAt ++ distinctFrom (i.carts.map (·.num)) c.cartAt

/-- The frame check over all but the last two bytes equals the last two (R183). -/
def checkFrame (m : List Byte) : Bool := frameCheck (m.take (imageLength m - 2)) == fieldAt m (imageLength m - 2) 2

/-- READ: the memory answers, and the image length is at least 14 and no more than the memory holds. -/
def imageReadable (memory : Option (List Byte)) : Option (List Byte) :=
  memory.filter fun m => 3 ≤ m.length && 14 ≤ imageLength m && imageLength m ≤ m.length

/-- The reason and the offset of the first check that fails, if one does (R183). -/
def imageFault (memory : Option (List Byte)) : Option (Nat × Nat) :=
  match imageReadable memory with
  | none => some (Reason.read, 0)
  | some all =>
    let m := all.take (imageLength all)
    if checkFrame m = false then some (Reason.check, imageLength m - 2)
    else
      match firstFault (checkFormat m) with
      | some o => some (Reason.format, o)
      | none =>
        match firstFault (checkCount m) with
        | some o => some (Reason.count, o)
        | none =>
          match firstFault (checkRange m) with
          | some o => some (Reason.range, o)
          | none => (firstFault (checkReference m)).map fun o => (Reason.reference, o)

/-! ### Filling the tables (R14, R23, R39, R63, R64, R72, R105, R122, R161) -/

/-- The node number, handed to the bus port as soon as it is read; outside 1-30 it is never learned (R179, R183). -/
def nodeNumberOf (memory : Option (List Byte)) : Option Nat :=
  (memory.filter fun m => 5 ≤ m.length && 5 ≤ imageLength m).bind fun m =>
    let n := fieldAt m 4 1
    if 1 ≤ n ∧ n ≤ 30 then some n else none

def newSection (n : Nat) : Section := { num := n, state := .free, level := .stop }

def newStop (c : StopCfg) : Stop :=
  { num := c.num, roll := none, expected := none, cart := none, claim := none, point := .ring, transfer := none,
    warning := false, pending := none }

/-- A cart before the survey: its state and load flag are the model's (log 5). -/
def newCart (c : CartCfg) : Cart :=
  { num := c.num, state := .idle, pos := none, load := none, loadFlag := false, leg := none, queued := none, held := [],
    task := none, startWait := none, startsFrom := none, transit := none, transfer := none, arm := none, lastFault := none, pending := none,
    noRecord := false, surveyReads := [] }

def newLink (n : Nat) : LinkRec := { num := n, out := Outbound.idle, inb := Inbound.idle }

def newModule (n : Nat) (c : ModuleCfg) : ModuleRec :=
  { num := n, missed := 0, lost := false, answered := false, inputs := List.replicate c.points .nothing }

def newWebStand (c : StandCfg) : WebStand :=
  { num := c.num, w := 0, k := c.k0, wLast := 0, v := 0, trimStart := none, trimCount := 0 }

def newWasteStand (c : StandCfg) : WasteStand := { num := c.num, marks := [], folder := .none }

/-- The blocks fill their tables from the image; per-stand tables are kept in increasing stand number. -/
def State.fillTables (s : State) (i : Image) : State :=
  let stands := sortBy (fun c : StandCfg => [c.num]) i.stands
  let carts := sortBy (fun c : CartCfg => [c.num]) i.carts
  (s.modPlant fun p =>
    { p with
      loader := { p.loader with image := i }
      supply := { p.supply with links := (oneTo i.links.length).map newLink }
      traffic :=
        { sections := (oneTo i.sections.length).map newSection, stops := i.stops.map newStop, carts := carts.map newCart }
      splice := { p.splice with stands := stands.map fun c => Stand.reset c.num }
      modules := i.modules.zipIdx.map fun (c, k) => newModule (k + 1) c }).modPress fun p =>
    { p with web := { p.web with stands := stands.map newWebStand }
             waste := { p.waste with stands := stands.map newWasteStand } }

/-! ### The outcome (R183 to R185) -/

def State.setNode (s : State) (n : NodeState) : State :=
  s.modPlant fun p => { p with loader := { p.loader with node := n } }

/-- HALTED: one CONFIG_FAULT, if the bus port has a node number (R184). -/
def State.halt (s : State) (why offset : Nat) : State :=
  let s := s.setNode .halted
  if s.plant.bus.number.isSome then s.event (.configFault why offset) else s

/-- SURVEY: scanning and the speed window start, W_last is set (R105, R107, R185). -/
def State.startSurvey (s : State) : State :=
  ((s.setNode .survey).modPlant fun p => { p with loader := { p.loader with surveyStart := p.now } }).modPress fun p =>
    { p with web := { windowEnd := s.plant.now + Config.speedWindow
                      stands := p.web.stands.map fun w => { w with wLast := WebAcc.whole w.w } } }

/-- Reading of the image completes (R183). -/
def State.readImage (s : State) (memory : Option (List Byte)) : State :=
  let s := s.modPlant fun p => p.modBus fun b => { b with number := nodeNumberOf memory }
  let s :=
    match imageReadable memory with
    | some m => s.fillTables (imageOf (m.take (imageLength m)))
    | none => s
  match imageFault memory with
  | some (why, o) => s.halt why o
  | none => s.startSurvey

end Sys2Proof.Machine
end

