-- ==== Sys2Proof/Machine/Survey.lean ====
section
/-!
DEFINITION. The end of the start survey (R185, R186): the report of rolls and running arms (R19, R147), the placement of
carts and sections (R87), and the entry to RUN (R86, R99).
-/
namespace Sys2Proof.Machine

/-! ### When the survey ends (R185) -/

def Plant.surveyDone (p : Plant) : Bool :=
  p.node == .survey && reached p.now (p.loader.surveyStart + Config.surveyWait) &&
    p.modules.all fun m => m.answered || m.lost

/-! ### Rolls (R19, R147) -/

/-- A stop whose roll sensor shows a roll: an unknown PLACED record. A point on a lost module takes no part. -/
def Plant.surveyStop (p : Plant) (c : StopCfg) : Plant :=
  if holdsRolls c.kind = true ∧ p.sensor c.num = true ∧ p.stopLost c.num = false then
    match p.createRoll (unknownRoll p.core .placed (.stop c.num)) with
    | some (h, p) => p.placeAt c.num h
    | none => p
  else p

/-- An arm that holds a roll: an unknown record, MOUNTED; or RUN where survey pulses came and no earlier arm of the
stand is RUN. A RUN arm's duty waits for the first speed window (R186). -/
def State.surveyArm (s : State) (n : Nat) (m : Arm) : State :=
  match s.plant.stand? n, s.plant.standCfg n with
  | some st, some c =>
    if s.plant.armLoaded n m = true ∧ s.plant.moduleLost c.modNo = false then
      match s.plant.createRoll (unknownRoll s.plant.core .mounted (.arm n m)) with
      | none => s
      | some (h, p) =>
        if 0 < (st.arm m).surveyPulses ∧ st.runArm = none then
          ({ s with plant := (((p.modRoll h fun r => { r with state := .run }).modArm n m fun a =>
            { a with state := .run, roll := .record h, est := a.est.enterSeeding }).modStand n fun st =>
            { st with runArm := some m }) }).resetFolder n (.record h)
        else { s with plant := p.mountArm n m (.record h) }
    else s
  | _, _ => s

def State.surveyRolls (s : State) : State :=
  forEach (oneTo 4) (fun s n => (s.surveyArm n .a).surveyArm n .b)
    (s.modPlant fun p => forEach p.stopCfgs Plant.surveyStop p)

/-! ### Carts and sections (R87) -/

/-- The newest of the readers, on modules that are not lost, whose latest reading is the cart (R185, log 16). -/
def Plant.surveyedAt (p : Plant) (c : Cart) : Option TagRead :=
  c.surveyReads.find? fun r =>
    match r.pos with
    | .stop x => !p.stopLost x
    | .sec n =>
      match p.sectionCfg n with
      | some k => !p.moduleLost k.modNo
      | none => false

/-- A cart read at a stop. A second cart at one stop enters FAULT there (log 16). -/
def Plant.surveyAtStop (p : Plant) (c : Cart) (x : Nat) (manual : Bool) : Plant :=
  match p.stop? x with
  | none => p
  | some s =>
    if s.cart.isSome then
      (p.modCart c.num fun c => { c with pos := some (.stop x) }).enterFault c.num .unexpected
    else
      let p := p.standAt c.num x
      let rest : CartState := if p.parkStop c.num = some x then .parked else .idle
      p.modCart c.num fun c => { c with state := if manual then .manual else rest }

/-- A cart read in a section: in AUTO it occupies the section, HELD, with its park leg. A second cart in one section
enters FAULT there (log 16). -/
def Plant.surveyInSection (p : Plant) (c : Cart) (n : Nat) (manual : Bool) : Plant :=
  let p := p.modCart c.num fun c => { c with pos := some (.sec n) }
  if p.sectionState? n = some .free then
    let p := (p.modSection n fun s => { s with state := .occupied c.num }).modCart c.num fun c => { c with held := [n] }
    if manual then p.modCart c.num fun c => { c with state := .manual }
    else (p.modCart c.num fun c => { c with state := .held }).giveParkLeg c.num
  else if manual then p.modCart c.num fun c => { c with state := .manual }
  else p.enterFault c.num .unexpected

/-- A cart is placed by its latest read, whose load flag is its own; a cart read nowhere is in FAULT with no position. -/
def Plant.surveyCart (p : Plant) (c : Cart) : Plant :=
  match p.surveyedAt c with
  | none => p.enterFault c.num .notFound
  | some r =>
    let p := p.modCart c.num fun c => { c with loadFlag := r.loaded }
    match r.pos with
    | .stop x => p.surveyAtStop c x r.manual
    | .sec n => p.surveyInSection c n r.manual

/-- A cart whose load flag shows loaded: an unknown CARRIED record. -/
def Plant.surveyLoad (p : Plant) (c : Cart) : Plant :=
  if c.loadFlag = true ∧ (p.surveyedAt c).isSome = true then
    match p.createRoll (unknownRoll p.core .carried (.cart c.num)) with
    | some (h, p) => p.modCart c.num fun c => { c with load := some h }
    | none => p
  else p

/-- A section that shows occupancy with no cart read in it is BLOCKED (R87). No rule names the cause that its SECTION_BLOCKED
carries: the model sends OCCUPANCY (DESIGN CHOICE, log 42). -/
def Plant.surveySection (p : Plant) (n : Nat) : Plant :=
  let lost :=
    match p.sectionCfg n with
    | some c => p.moduleLost c.modNo
    | none => true
  if p.sectionState? n = some .free ∧ p.occupied n = true ∧ lost = false ∧ p.someCartExpected n = false then
    p.blockSection n Reason.occupancy
  else p

def Plant.surveyTrack (p : Plant) : Plant :=
  let p := forEach p.traffic.carts Plant.surveyCart p
  let p := forEach p.traffic.carts Plant.surveyLoad p
  forEach (oneTo p.ringSize) Plant.surveySection p

/-! ### Entry to RUN (R86, R99, R186) -/

/-- A STOW for every record at a DOCK, IN or OUT stop, then for every loaded cart in AUTO. -/
def Plant.startStows (p : Plant) : Plant :=
  let p := forEach p.stopCfgs (fun p c => p.autoStow c.num) p
  forEach (p.traffic.carts.filter fun c => c.state != .fault && c.state != .manual) (fun p c => p.onCartOrPend c.num) p

/-- NODE_STARTED carries event number 0, so it is sent before the events of the report (R182, log 15). -/
def State.endSurvey (s : State) : State :=
  if s.plant.surveyDone then
    let s := (s.setNode .run).event (.nodeStarted s.plant.image.cls)
    let s := s.surveyRolls
    s.modPlant fun p =>
      (forEach ((p.modules.filter (·.lost)).map (·.num)) Plant.trackLost p.surveyTrack).startStows.settle
  else s

end Sys2Proof.Machine
end

