-- ==== Sys2Proof/Machine/Field.lean ====
section
/-!
DEFINITION. The field link (11 R187, R188): what each point of a module is, the outputs a poll carries, the delivery of field
events to the blocks, an answer, a missed scan and a module surveyed again.
-/
namespace Sys2Proof.Machine

/-- The scheduler and the traffic controller come to rest, in RUN. -/
def State.settle (s : State) : State := s.modPlant fun p => if p.inRun then p.settle else p

/-- The field link scans in SURVEY and RUN (R184, R185). -/
def Plant.scanning (p : Plant) : Bool := p.node == .survey || p.node == .run

/-! ### Points (10 section 10.6) -/

/-- An input point by the device it reads. -/
inductive FieldPoint where
  | occupancy (sec : Nat)
  | sectionTag (sec : Nat)
  | stopTag (stop : Nat)
  | sensor (stop : Nat)
  | confirm (stop : Nat)
  | reject (stop : Nat)
  | ready (stand : Nat) (arm : Arm)
  | spliceNow (stand : Nat)
  | armLoaded (stand : Nat) (arm : Arm)
  | web (stand : Nat)
deriving DecidableEq, Repr

def sectionPoint (c : SectionCfg) (n pt : Nat) : Option FieldPoint :=
  if pt = c.occPoint then some (.occupancy n) else if pt = c.tagPoint then some (.sectionTag n) else none

def stopPoint (c : StopCfg) (pt : Nat) : Option FieldPoint :=
  if pt = c.firstPoint then some (.stopTag c.num)
  else if pt = c.firstPoint + 1 then some (.sensor c.num)
  else if c.kind ≠ .prep then none
  else if pt = c.firstPoint + 5 then some (.confirm c.num)
  else if pt = c.firstPoint + 6 then some (.reject c.num)
  else none

def standPoint (n pt : Nat) : Option FieldPoint :=
  if pt = 1 then some (.ready n .a) else if pt = 2 then some (.ready n .b) else if pt = 3 then some (.spliceNow n)
  else if pt = 4 then some (.armLoaded n .a) else if pt = 5 then some (.armLoaded n .b)
  else if pt = 6 then some (.web n) else none

/-- What an input point reads: a section's device before a stop's, a stop's before a stand's (log 6). -/
def Plant.pointOf (p : Plant) (m pt : Nat) : Option FieldPoint :=
  let sec := (oneTo p.ringSize).findSome? fun n =>
    match p.sectionCfg n with
    | some c => if c.modNo = m then sectionPoint c n pt else none
    | none => none
  let stop := p.stopCfgs.findSome? fun c => if c.modNo = m then stopPoint c pt else none
  let stand := p.standCfgs.findSome? fun c => if c.modNo = m then standPoint c.num pt else none
  (sec.or stop).or stand

/-! ### Outputs and polls (R187; 10 section 10.6) -/

/-- What an output point is set to. -/
inductive PointOutput where
  | drive (l : DriveLevel)
  | point (p : Point)
  | transfer (t : Option TransferDir)
  | warning (on : Bool)
  | conveyor (on : Bool)
deriving DecidableEq, Repr

/-- The output points of one section, stop or link, as its block last set them. -/
def Plant.sectionOutputs (p : Plant) (n : Nat) : List (Nat × PointOutput) :=
  match p.sectionCfg n, p.section? n with
  | some c, some s => [(c.drivePoint, .drive s.level)]
  | _, _ => []

def Plant.stopOutputs (p : Plant) (c : StopCfg) : List (Nat × PointOutput) :=
  match p.stop? c.num with
  | some s => [(c.firstPoint + 2, .point s.point), (c.firstPoint + 3, .transfer s.transfer),
      (c.firstPoint + 4, .warning s.warning)]
  | none => []

def Plant.linkOutputs (p : Plant) (n : Nat) : List (Nat × PointOutput) :=
  match p.linkCfg n, p.link? n with
  | some c, some l => [(c.convPoint, .conveyor (p.conveyor l))]
  | _, _ => []

def Plant.linksOn (p : Plant) (m : Nat) : List Nat :=
  (oneTo p.image.links.length).filter fun n => (p.linkCfg n).map (·.convModule) == some m

/-- The outputs of a module: its sections' drive levels, its stops' points, transfer and start warning outputs, and the
conveyors wired to it. -/
def Plant.moduleOutputs (p : Plant) (m : Nat) : List (Nat × PointOutput) :=
  (p.sectionsOn m).flatMap p.sectionOutputs ++ (p.stopCfgs.filter (·.modNo == m)).flatMap p.stopOutputs ++
    (p.linksOn m).flatMap p.linkOutputs

/-- The poll on the field link: the address of the module polled and the outputs it carries. -/
def Plant.poll (p : Plant) : Option (Nat × List (Nat × PointOutput)) :=
  if p.scanning = true ∧ p.polled ≠ 0 then
    (p.image.modules[p.polled - 1]?).map fun c => (c.address, p.moduleOutputs p.polled)
  else none

/-- The next module in module number order; after the last a new scan begins. -/
def Plant.nextPoll (p : Plant) : Plant :=
  { p with polled := if p.modules.length ≤ p.polled then 1 else p.polled + 1 }

/-! ### Delivery (R187) -/

/-- A stand's block acts in RUN on a LINE node. -/
def State.onLine (s : State) (act : State → State) : State := if s.plant.lineRun then act s else s

/-- A field event reaches its block. -/
def State.deliver (s : State) (pt : FieldPoint) (v : PointInput) : State :=
  match pt, v with
  | .occupancy n, .level on => s.modPlant fun p => p.occupancyChanged n on
  | .sectionTag n, .tag c manual loaded => s.modPlant fun p => p.sectionRead n c manual loaded
  | .stopTag x, .tag c manual loaded => s.stopRead x c manual loaded
  | .stopTag x, .gone c => s.modPlant fun p => p.stopGone x c
  | .sensor x, .level on => s.modPlant fun p => p.sensorChanged x on
  | .confirm x, .level true => s.modPlant fun p => p.prepConfirm x
  | .reject x, .level true => s.modPlant fun p => p.prepReject x
  | .ready n m, .level true => s.onLine fun s => s.readyConfirm n m
  | .spliceNow n, .level true => s.onLine fun s => s.spliceNow n
  | .armLoaded n m, .level on => s.onLine fun s => s.armLoadedChanged n m on
  | .web n, .level on => s.onLine fun s => s.webPresentChanged n on
  | _, _ => s

/-- Which readings are events against the last one: a tag read or a gone report always, a level when it changes. -/
def isEvent (old new : PointInput) : Bool :=
  match new with
  | .nothing => false
  | .level on => on != inputOn old
  | .tag _ _ _ => true
  | .gone _ => true

/-- What a tag reader read before in SURVEY is no longer its latest reading (R185). -/
def Plant.forgetRead (p : Plant) (pos : Pos) : Plant :=
  { p with traffic := { p.traffic with carts := p.traffic.carts.map fun c =>
      { c with surveyReads := c.surveyReads.filter (·.pos != pos) } } }

/-- A tag reader reads a cart in SURVEY: that is now its latest reading, and the newest of the cart (R87, R185, log 16). -/
def Plant.noteTag (p : Plant) (pos : Pos) (cart : Nat) (manual loaded : Bool) : Plant :=
  (p.forgetRead pos).modCart cart fun c =>
    { c with surveyReads := { pos := pos, manual := manual, loaded := loaded } :: c.surveyReads, loadFlag := loaded }

/-- The tag readers' readings are noted in SURVEY (R87); after a gone report a stop's reader has read no cart (log 16). -/
def Plant.noteRead (p : Plant) (pt : FieldPoint) (v : PointInput) : Plant :=
  match pt, v with
  | .sectionTag n, .tag c manual loaded => p.noteTag (.sec n) c manual loaded
  | .stopTag x, .tag c manual loaded => p.noteTag (.stop x) c manual loaded
  | .stopTag x, .gone _ => p.forgetRead (.stop x)
  | _, _ => p

/-- One point of an answer: its reading, and in RUN its event. -/
def State.takePoint (m : Nat) (s : State) (pv : Nat × PointInput) : State :=
  let pt := pv.1
  let v := pv.2
  match s.plant.module? m with
  | none => s
  | some r =>
    let old := r.input pt
    let s := if v = .nothing then s else s.modPlant fun p => p.setInput m pt v
    match s.plant.pointOf m pt with
    | none => s
    | some k =>
      if s.plant.inRun then if isEvent old v then (s.deliver k v).settle else s
      else s.modPlant fun p => p.noteRead k v

/-! ### A module surveyed again (R188) -/

/-- The readings of an answer; a point with nothing new keeps its own. -/
def mergeInputs (old new : List PointInput) : List PointInput :=
  old.zipIdx.map fun (o, i) =>
    match new.getD i .nothing with
    | .nothing => o
    | .level b => .level b
    | .tag c m l => .tag c m l
    | .gone c => .gone c

/-- A stand input whose reading differs from its held reading is delivered; buttons are not. -/
def State.standBack (s : State) (m : Nat) (held : ModuleRec) (pt : Nat) : State :=
  match s.plant.module? m with
  | none => s
  | some r =>
    let v := r.input pt
    if inputOn v = inputOn (held.input pt) then s
    else
      match s.plant.pointOf m pt with
      | some (.armLoaded n k) => s.deliver (.armLoaded n k) (.level (inputOn v))
      | some (.web n) => s.deliver (.web n) (.level (inputOn v))
      | _ => s

/-- An arm of a module surveyed again that reads loaded (R19): a roll on it with no record gets one if there is room, and an
EMPTY arm has been loaded by hand (R21, R124). An arm that reads clear is not reported: R19 takes a removal only for a PLACED
record, and a reading that differs from the held one is delivered by State.standBack (R188). The new record of a RUN or BUTT
arm takes the place of unrecorded in the stand's folder roll and marks, as R163 says of a ROLL NOTICE, and a butt already seen
stopped then asks for its UNLOAD, as R146 says of one (DESIGN CHOICE, log 48). -/
def State.armBack (s : State) (n : Nat) (m : Arm) : State :=
  match s.plant.standCfg n, s.plant.arm? n m with
  | some c, some a =>
    if s.plant.sensorHeld c.standStop then s
    else if s.plant.armLoaded n m = true ∧ a.roll = .unrecorded then
      match s.plant.createRoll (unknownRoll s.plant.core .mounted (.arm n m)) with
      | some (h, p) => ({ s with plant := p }).recordOnArm n m h
      | none => s.event (.tableFull 0 (.arm n m))
    else if s.plant.armLoaded n m then s.armInput n m true
    else s
  | _, _ => s

def State.armsBack (s : State) (m : Nat) : State :=
  forEach (s.plant.standCfgs.filter (·.modNo == m)) (fun s c => s.onLine fun s => (s.armBack c.num .a).armBack c.num .b) s

/-- A lost module answers in RUN. -/
def State.surveyAgain (s : State) (r : ModuleRec) (inputs : List PointInput) : State :=
  let s := s.modPlant fun p =>
    (p.modModule r.num fun r =>
      { r with missed := 0, lost := false, answered := true, inputs := mergeInputs r.inputs inputs }).trackBack r.num
  (forEach (oneTo r.inputs.length) (fun s pt => s.standBack r.num r pt) (s.armsBack r.num)).settle

/-! ### Answers and missed scans (R187, R188) -/

/-- The module that is polled answers, and the next is polled. Its first answer gives no events; in SURVEY readings and reads
are noted. A module that is not polled is not heard (log 39). -/
def State.fieldAnswer (s : State) (m : Nat) (inputs : List PointInput) : State :=
  if s.plant.scanning = true ∧ s.plant.polled = m then
    let s := s.modPlant Plant.nextPoll
    match s.plant.module? m with
    | none => s
    | some r =>
      if s.plant.inRun = true ∧ r.lost = true then s.surveyAgain r inputs
      else
        let s := s.modPlant fun p => p.modModule m fun r => { r with missed := 0, lost := false, answered := true }
        forEach ((inputs.take r.inputs.length).zipIdx.map fun (v, i) => (i + 1, v)) (State.takePoint m) s
  else s

/-- The poll of a module gets no answer, or one that fails its check. -/
def State.missedScan (s : State) (m : Nat) : State :=
  if s.plant.scanning = true ∧ s.plant.polled = m then
    s.modPlant fun p => (p.nextPoll.modModule m fun r => { r with missed := r.missed + 1 }).loseModule m
  else s

/-! ### A single changed point -/

/-- The module and point of a device; none where it is not configured. -/
def Plant.wiring (p : Plant) : FieldPoint → Option (Nat × Nat)
  | .occupancy n => (p.sectionCfg n).map fun c => (c.modNo, c.occPoint)
  | .sectionTag n => (p.sectionCfg n).map fun c => (c.modNo, c.tagPoint)
  | .stopTag x => (p.stopCfg x).map fun c => (c.modNo, c.firstPoint)
  | .sensor x => (p.stopCfg x).map fun c => (c.modNo, c.firstPoint + 1)
  | .confirm x => (p.stopCfg x).map fun c => (c.modNo, c.firstPoint + 5)
  | .reject x => (p.stopCfg x).map fun c => (c.modNo, c.firstPoint + 6)
  | .ready n m => (p.standCfg n).map fun c => (c.modNo, match m with | .a => 1 | .b => 2)
  | .spliceNow n => (p.standCfg n).map fun c => (c.modNo, 3)
  | .armLoaded n m => (p.standCfg n).map fun c => (c.modNo, armPoint m)
  | .web n => (p.standCfg n).map fun c => (c.modNo, 6)

/-- A field event of one device, as an answer of its module would give it (R187): nothing from a lost module (R188); in
SURVEY only the reading is noted (R185); in RUN a level that has not changed is no event. -/
def State.fieldEvent (s : State) (k : FieldPoint) (v : PointInput) : State :=
  match s.plant.wiring k with
  | none => s
  | some (m, pt) =>
    match s.plant.module? m with
    | none => s
    | some r =>
      if s.plant.scanning = true ∧ r.lost = false then
        let s' := s.modPlant fun p => p.setInput m pt v
        if s.plant.inRun then if isEvent (r.input pt) v then (s'.deliver k v).settle else s
        else s'.modPlant fun p => p.noteRead k v
      else s

/-- A press of a button (R187): an event by itself, in RUN. -/
def State.button (s : State) (k : FieldPoint) : State :=
  match s.plant.wiring k with
  | none => s
  | some (m, _) => if s.plant.inRun = true ∧ s.plant.moduleLost m = false then (s.deliver k (.level true)).settle else s

end Sys2Proof.Machine
end

