-- ==== Sys2Proof/Machine/FieldCommands.lean ====
section
/-!
DEFINITION. The commands of the field link and of the track (11, R187, R188; 04; 02, R35, R37).
-/
namespace Sys2Proof.Machine

/-- FIELD_ANSWER (R187, R188). -/
def execFieldAnswer (modNo : Nat) (inputs : List PointInput) (s : State) : Host.Outcome State Fault Refusal :=
  .next (s.fieldAnswer modNo inputs)

/-- MISSED_SCAN (R188). -/
def execMissedScan (modNo : Nat) (s : State) : Host.Outcome State Fault Refusal :=
  .next (s.missedScan modNo)

/-- MODULE_LOST (R188, R86): the missed-scan count has reached 3. -/
def execModuleLost (modNo : Nat) (s : State) : Host.Outcome State Fault Refusal :=
  .next (if s.plant.scanning then s.modPlant fun p => p.loseModule modNo else s)

/-- OCCUPANCY_CHANGE (R66, R84). -/
def execOccupancyChange (sec : Nat) (present : Bool) (s : State) : Host.Outcome State Fault Refusal :=
  .next (s.fieldEvent (.occupancy sec) (.level present))

/-- SECTION_TAG_READ (R67, R84). -/
def execSectionTagRead (sec cart : Nat) (manual loaded : Bool) (s : State) : Host.Outcome State Fault Refusal :=
  .next (s.fieldEvent (.sectionTag sec) (.tag cart manual loaded))

/-- STOP_TAG_READ (R76, R84, R85). -/
def execStopTagRead (stop cart : Nat) (manual loaded : Bool) (s : State) : Host.Outcome State Fault Refusal :=
  .next (s.fieldEvent (.stopTag stop) (.tag cart manual loaded))

/-- STOP_TAG_GONE (R75). -/
def execStopTagGone (stop cart : Nat) (s : State) : Host.Outcome State Fault Refusal :=
  .next (s.fieldEvent (.stopTag stop) (.gone cart))

/-- START_WAIT_EXPIRY (R75). -/
def execStartWaitExpiry (cart : Nat) (s : State) : Host.Outcome State Fault Refusal :=
  .next (s.modPlant fun p => p.startWaitEnd cart).settle

/-- TRANSIT_EXPIRY (R78, R83). -/
def execTransitExpiry (cart : Nat) (s : State) : Host.Outcome State Fault Refusal :=
  .next (s.modPlant fun p => p.transitEnd cart).settle

/-- TRANSFER_TIMEOUT (R82, R83). -/
def execTransferTimeout (cart : Nat) (s : State) : Host.Outcome State Fault Refusal :=
  .next (s.modPlant fun p => p.transferEnd cart).settle

/-- ROLL_SENSOR_CHANGE (R18, R60, R79, R80). -/
def execRollSensorChange (stop : Nat) (present : Bool) (s : State) : Host.Outcome State Fault Refusal :=
  .next (s.fieldEvent (.sensor stop) (.level present))

/-- PREP_CONFIRM (R35). -/
def execPrepConfirm (stop : Nat) (s : State) : Host.Outcome State Fault Refusal :=
  .next (s.button (.confirm stop))

/-- PREP_REJECT (R37). -/
def execPrepReject (stop : Nat) (s : State) : Host.Outcome State Fault Refusal :=
  .next (s.button (.reject stop))

end Sys2Proof.Machine
end

