-- ==== Sys2Proof/Machine/Status.lean ====
section
/-!
DEFINITION. STATUS replies (10, R180): the contents of each section, in the order R180 lists them.
-/
namespace Sys2Proof.Machine

def countOf {α : Type} (l : List α) (p : α → Bool) : Nat := (l.filter p).length

/-- NODE: the five counters in four bytes each, records in use and tasks in one (log 12). -/
def State.statusNode (s : State) : List Byte :=
  let b := s.plant.bus
  u8 s.plant.node.code ++ u8 s.plant.image.cls ++ u8 b.link.code ++ u32 b.overrun ++ u32 b.txDrop ++ u32 b.checkErr ++
    u32 b.ignored ++ u32 b.silentEntries ++ u8 s.plant.records.length ++ u8 s.plant.sched.queue.length

def Plant.statusLanes (p : Plant) : List Byte :=
  (List.range 4).flatMap fun l => u8 (countOf p.openSlots (·.extra == l))

def Plant.statusSupply (p : Plant) : List Byte :=
  let calls := p.supply.calls
  u8 (countOf calls (·.state == .opened)) ++ u8 (countOf calls (·.state == .chosen)) ++
    u8 (countOf calls (·.state == .inbound)) ++ u8 (countOf calls (·.state == .failed)) ++
    u8 (countOf p.supply.holds (·.expiry.isSome)) ++ u8 (countOf p.supply.holds (·.expiry.isNone)) ++
    p.supply.links.flatMap fun l => u8 l.out.state.code ++ u8 l.inb.expecting.toNat

def Plant.statusSections (p : Plant) : List Byte :=
  p.traffic.sections.flatMap fun s => u8 s.state.code ++ u8 (numOr0 s.state.holder)

def Plant.statusStop (p : Plant) (x : Nat) : Option (List Byte) :=
  match p.stop? x, p.stopKind x with
  | some s, some k =>
    some (u8 (stopKindCode k) ++ u40 (p.rollNoOf s.roll) ++ u40 (p.rollNoOf s.expected) ++ u8 (numOr0 s.cart) ++
      u8 (numOr0 s.claim) ++ u8 s.point.code ++ bit (p.stopLost x) ++ u8 (kindOr0 s.pending))
  | _, _ => none

def legStop : Option Leg → Nat
  | some l => l.stop
  | none => 0

def faultCode : Option FaultCause → Nat
  | some f => f.code
  | none => 0

def Plant.statusCart (p : Plant) (n : Nat) : Option (List Byte) :=
  (p.cart? n).map fun c =>
    u8 c.state.code ++ posBytes c.pos ++ u40 (p.rollNoOf c.load) ++ u8 (legStop c.leg) ++ u8 (legStop c.queued) ++
      u8 (c.held.getD 0 0) ++ u8 (c.held.getD 1 0) ++ u8 (c.held.getD 2 0) ++ u8 (numOr0 c.task) ++
      u8 (faultCode c.lastFault)

def Plant.statusTask (p : Plant) (i : Nat) : Option (List Byte) :=
  (p.queueOrder[i]?).map fun t =>
    u8 t.num ++ u8 t.kind.code ++ u8 t.cls ++ u8 t.state.code ++ u16 t.urgency ++ u40 (p.rollNo t.roll) ++
      u8 (numOr0 t.cart) ++ u8 t.suspensions ++ bit t.noSlot

/-- The last request answer: the four answers in the order of R122, then absent. -/
def answerCode : Option Answer → Nat
  | some a => a.code
  | none => 4

def State.statusStand (s : State) (n : Nat) : Option (List Byte) :=
  match s.stand? n, s.web? n with
  | some st, some w =>
    let d :=
      match st.runArm with
      | some m => numOr0 (st.arm m).est.dFilt
      | none => 0
    some (u8 st.running.toNat ++ u8 (armOr0 st.runArm) ++ u8 st.phase.code ++ u8 (standFlags st) ++
      u8 st.armA.state.code ++ u8 st.armB.state.code ++ u48 (WebAcc.whole w.w) ++ u16 w.v ++ u32 w.k ++ u16 d ++
      u16 st.timeToSplice ++ u32 (numOr0 (s.press.edition.need n)) ++ u8 (answerCode st.lastAnswer) ++
      bit (s.plant.outputValid n))
  | _, _ => none

/-- MARK: item (stand - 1) x 4 + mark position. The splice window is sent as 1 open, 0 closed: the encodings name no code for it
(DESIGN CHOICE, log 50). -/
def State.statusMark (s : State) (item : Nat) : Option (List Byte) :=
  let n := item / 4 + 1
  ((s.waste? n).bind fun w => w.marks[item % 4]?).map fun m =>
    u48 m.pos ++ u40 (s.plant.refNo m.old) ++ u40 (s.plant.refNo m.new) ++ bit m.reached ++ bit (s.windowOpen n)

def State.statusWaste (s : State) : List Byte :=
  let w := s.press.waste
  u16 w.start ++ u16 w.manual ++ bit w.latch ++ u32 w.unattributed ++
    w.stands.flatMap fun st => u40 (s.plant.refNo st.folder)

def Press.statusEdition (p : Press) : List Byte :=
  let e := p.edition
  u8 e.state.code ++ u16 (numOr0 e.id) ++ u8 (numOr0 e.cur) ++ (e.versions.flatMap fun v => u8 v.state.code) ++
    u32 e.unplanned

/-- FIELD: 0 configured, 1 scanned, 2 lost; in HALTED no module is scanned (R184, R188). A module is configured until its first
answer and scanned from then on (DESIGN CHOICE, log 55). -/
def Plant.statusField (p : Plant) : List Byte :=
  p.modules.flatMap fun m =>
    u8 (if p.node = .halted then 0 else if m.lost then 2 else if m.answered then 1 else 0)

/-- The contents of a section's item; none is an absent reply (R180). -/
def State.statusItem (s : State) (sec item : Nat) : Option (List Byte) :=
  let p := s.plant
  let line := p.image.isLine
  let only (b : Bool) (c : List Byte) : Option (List Byte) := if b then some c else none
  let run := p.inRun
  if sec = 1 then only (item == 0) s.statusNode
  else if sec = 12 then only (item == 0) p.statusField
  else if run = false then none
  else if sec = 2 then only (item == 0) p.statusLanes
  else if sec = 3 then only (item == 0) p.statusSupply
  else if sec = 4 then only (item == 0) p.statusSections
  else if sec = 5 then p.statusStop item
  else if sec = 6 then p.statusCart item
  else if sec = 7 then p.statusTask item
  else if sec = 8 then if line then s.statusStand item else none
  else if sec = 9 then if line = true ∧ item < 16 then s.statusMark item else none
  else if sec = 10 then only (line && item == 0) s.statusWaste
  else if sec = 11 then only (line && item == 0) s.press.statusEdition
  else none

/-- REQUEST for STATUS (R180). -/
def State.takeStatusRequest (s : State) (f : Frame) : State :=
  let sec := f.num 1 1
  let item := f.num 2 1
  s.modPlant fun p => p.send f.src (.status sec item (s.statusItem sec item))

end Sys2Proof.Machine
end

