-- ==== Sys2Proof/Machine/FrameCommands.lean ====
section
/-!
DEFINITION. The commands that take the frame at the head of the receive queue (10, R178). A frame of another kind stays at the head;
one that its owner does not take is removed and counted as ignored.
-/
namespace Sys2Proof.Machine

/-- CALL (R52 to R54). -/
def execCall (s : State) : Host.Outcome State Fault Refusal :=
  .next (s.takeHead .call fun f s => s.modPlant fun p => p.considerCall f)

/-- OFFER (R42). -/
def execOffer (s : State) : Host.Outcome State Fault Refusal :=
  .next (s.takeHead .offer fun f s => s.modPlant fun p => p.takeOffer f)

/-- TAKE (R55). -/
def execTake (s : State) : Host.Outcome State Fault Refusal :=
  .next (s.takeHead .take fun f s => (s.modPlant fun p => p.takeTake f).settle)

/-- CLOSE (R56). -/
def execClose (s : State) : Host.Outcome State Fault Refusal :=
  .next (s.takeHead .close fun f s => s.modPlant fun p => p.takeClose f)

/-- GONE (R46). -/
def execGone (s : State) : Host.Outcome State Fault Refusal :=
  .next (s.takeHead .gone fun f s => s.modPlant fun p => p.takeGone f)

/-- SHIP of stage COMING (R44). -/
def execShipComing (s : State) : Host.Outcome State Fault Refusal :=
  .next (s.takeHead .shipComing fun f s => s.modPlant fun p => p.takeComing f)

/-- SHIP of stage READY (R45, R51). -/
def execShipReady (s : State) : Host.Outcome State Fault Refusal :=
  .next (s.takeHead .shipReady fun f s => s.modPlant fun p => p.takeReady f)

/-- ACCEPT (R59). -/
def execAccept (s : State) : Host.Outcome State Fault Refusal :=
  .next (s.takeHead .accept fun f s => s.modPlant fun p => p.takeAccept f)

/-- REFUSE (R59, R62). -/
def execRefuse (s : State) : Host.Outcome State Fault Refusal :=
  .next (s.takeHead .refuse fun f s => (s.modPlant fun p => p.takeRefuse f).settle)

/-- LANDED (R61). -/
def execLanded (s : State) : Host.Outcome State Fault Refusal :=
  .next (s.takeHead .landed fun f s => (s.modPlant fun p => p.takeLanded f).settle)

/-- ROLL NOTICE (R15 to R17). -/
def execRollNotice (s : State) : Host.Outcome State Fault Refusal :=
  .next (s.takeHead .rollNotice fun f s => (s.takeNotice f).settle)

/-- EDITION (R150). -/
def execEdition (s : State) : Host.Outcome State Fault Refusal :=
  .next (s.takeHead .edition fun f s => s.takeEdition f.plan)

/-- AMEND (R152): edition ID, version ID, new ordered count. -/
def execAmend (s : State) : Host.Outcome State Fault Refusal :=
  .next (s.takeHead .amend fun f s => s.takeAmend (f.num 0 2) (f.num 2 1) (f.num 3 4))

/-- END (R151): edition ID. -/
def execEditionEnd (s : State) : Host.Outcome State Fault Refusal :=
  .next (s.takeHead .editionEnd fun f s => s.takeEnd (f.num 0 2))

/-- DIVERT (R166): the count n. -/
def execDivert (s : State) : Host.Outcome State Fault Refusal :=
  .next (s.takeHead .divert fun f s => s.takeDivert (f.num 0 2))

/-- REQUEST for TALLY (R158): a tally to its source. -/
def execRequestTally (s : State) : Host.Outcome State Fault Refusal :=
  .next (s.takeHead .requestTally fun f s => s.tally .request f.src)

/-- REQUEST for STATUS (R180). -/
def execRequestStatus (s : State) : Host.Outcome State Fault Refusal :=
  .next (s.takeHead .requestStatus fun f s => s.takeStatusRequest f)

end Sys2Proof.Machine
end

