-- ==== Sys2Proof/Machine/NodeCommands.lean ====
section
/-!
DEFINITION. The commands of the node states (11, R183 to R186).
-/
namespace Sys2Proof.Machine

/-- COLD_RESET (R184): every block takes its reset values; the clocks run on and the press-run pin keeps its level
(log 1, log 2). -/
def execColdReset (s : State) : Host.Outcome State Fault Refusal :=
  .next { s with plant := { Plant.reset with clock := s.plant.clock, pressRun := s.plant.pressRun }, press := Press.reset }

/-- RESET_END (R184): RESET gives way to LOADING. -/
def execResetEnd (s : State) : Host.Outcome State Fault Refusal :=
  .next (if s.plant.node = .reset then s.setNode .loading else s)

/-- IMAGE_READ (R183): in LOADING, the image is read, checked, and taken or refused. -/
def execImageRead (memory : Option (List Byte)) (s : State) : Host.Outcome State Fault Refusal :=
  .next (if s.plant.node = .loading then s.readImage memory else s)

/-- SURVEY_END (R185 to R187): once the survey is done, the report is made and the node enters RUN. -/
def execSurveyEnd (s : State) : Host.Outcome State Fault Refusal :=
  .next s.endSurvey

end Sys2Proof.Machine
end

