-- ==== Sys2Proof/Machine/PressCommands.lean ====
section
/-!
DEFINITION. Copies and the press-run input (08, 09).
-/
namespace Sys2Proof.Machine

/-- COPY_PULSE (R156). -/
def execCopyPulse (s : State) : Host.Outcome State Fault Refusal :=
  .next (if s.plant.lineRun then s.copyPulse else s)

/-- TRIM_WINDOW_END (R121): the trim window has counted its copies. -/
def execTrimWindowEnd (stand : Nat) (s : State) : Host.Outcome State Fault Refusal :=
  .next (if s.plant.lineRun then s.endTrimOf stand else s)

/-- PRESS_RUN_RISE (R154, R165): the level is the pin's; the edge is taken in RUN. -/
def execPressRunRise (s : State) : Host.Outcome State Fault Refusal :=
  .next (let s := s.setPressRun true; if s.plant.lineRun then s.pressRise else s)

/-- PRESS_RUN_FALL (R120, R137, R140, R144, R155, R167). -/
def execPressRunFall (s : State) : Host.Outcome State Fault Refusal :=
  .next (let s := s.setPressRun false; if s.plant.lineRun then s.pressFall.settle else s)

end Sys2Proof.Machine
end

