-- ==== Sys2Proof/Machine/StandCommands.lean ====
section
/-!
DEFINITION. The commands of the stands (06, 07). Where a condition of the manual makes the event, a command given without it does
nothing (log 2).
-/
namespace Sys2Proof.Machine

/-- READY_CONFIRM (R125). -/
def execReadyConfirm (stand : Nat) (arm : Arm) (s : State) : Host.Outcome State Fault Refusal :=
  .next (s.button (.ready stand arm))

/-- SPLICE_NOW (R142). -/
def execSpliceNow (stand : Nat) (s : State) : Host.Outcome State Fault Refusal :=
  .next (s.button (.spliceNow stand))

/-- ARM_LOADED_CHANGE (R79, R80, R124, R145). -/
def execArmLoadedChange (stand : Nat) (arm : Arm) (present : Bool) (s : State) : Host.Outcome State Fault Refusal :=
  .next (s.fieldEvent (.armLoaded stand arm) (.level present))

/-- WEB_PRESENT_CHANGE (R139, R143). -/
def execWebPresentChange (stand : Nat) (present : Bool) (s : State) : Host.Outcome State Fault Refusal :=
  .next (s.fieldEvent (.web stand) (.level present))

/-- WEB_PULSE (R106, R189): counted from the load of K, in SURVEY and RUN. -/
def execWebPulse (stand : Nat) (s : State) : Host.Outcome State Fault Refusal :=
  .next (if s.plant.scanning then s.modWeb stand WebStand.pulse else s)

/-- KNIFE (R137, R138): W has passed W_p plus the knife offset. -/
def execKnife (stand : Nat) (s : State) : Host.Outcome State Fault Refusal :=
  .next (if s.plant.lineRun = true ∧ s.knifeDue stand = true then (s.fireKnife stand).settle else s)

/-- VERIFY_PASSED (R139): W has passed W_k plus the verify length. -/
def execVerifyPassed (stand : Nat) (s : State) : Host.Outcome State Fault Refusal :=
  .next (if s.plant.lineRun = true ∧ s.verifyDue stand = true then s.verifyDone stand else s)

/-- REVOLUTION_PULSE (R109, R189): taken by the state of its arm. -/
def execRevolutionPulse (stand : Nat) (arm : Arm) (s : State) : Host.Outcome State Fault Refusal :=
  .next (s.armPulse stand arm)

/-- STANDBY_PULSE (R134, R189): the same line, of an arm that is not in RUN. -/
def execStandbyPulse (stand : Nat) (arm : Arm) (s : State) : Host.Outcome State Fault Refusal :=
  .next (s.armPulse stand arm)

/-- ENTER_MATCHED (R134, R135): the matched count has reached the settle revolutions. -/
def execEnterMatched (stand : Nat) (s : State) : Host.Outcome State Fault Refusal :=
  .next (if s.plant.lineRun then s.enterMatched stand else s)

/-- PASTE (R136): the fire time has come. -/
def execPaste (stand : Nat) (s : State) : Host.Outcome State Fault Refusal :=
  .next (if s.plant.lineRun = true ∧ s.pasteDue stand = true then s.paste stand else s)

/-- OUTPUT_PULSE_END (R136, R137): the output's pulse width has passed. -/
def execOutputPulseEnd (stand : Nat) (output : PulsedOutput) (s : State) : Host.Outcome State Fault Refusal :=
  .next (s.modStand stand fun st => st.endPulse s.plant.now output)

/-- SPEED_WINDOW (R107, R108, R130). -/
def execSpeedWindow (s : State) : Host.Outcome State Fault Refusal :=
  .next s.speedWindow

/-- PULSE_LOST (R115): more than two expected periods since the RUN arm's last pulse. -/
def execPulseLost (stand : Nat) (s : State) : Host.Outcome State Fault Refusal :=
  .next (if s.plant.lineRun then s.pulseLost stand else s)

/-- DECEL_STOPPED (R141): the SPIN arm of a stand in DECEL has stopped. -/
def execDecelStopped (stand : Nat) (s : State) : Host.Outcome State Fault Refusal :=
  .next (if s.plant.lineRun then s.modPlant fun p => p.decelStopped stand else s)

/-- BUTT_STOPPED (R146): a BUTT arm is seen stopped. -/
def execButtStopped (stand : Nat) (arm : Arm) (s : State) : Host.Outcome State Fault Refusal :=
  .next (if s.plant.lineRun then (s.modPlant fun p => p.buttStopped stand arm).settle else s)

end Sys2Proof.Machine
end

