-- ==== Sys2Proof/Machine/SupplyCommands.lean ====
section
/-!
DEFINITION. The waits of the supply unit (03). A wait that has not run out, or is not running, does nothing (log 2).
-/
namespace Sys2Proof.Machine

/-- OFFER_WINDOW_EXPIRY (R43). -/
def execOfferWindowExpiry (stand : Nat) (s : State) : Host.Outcome State Fault Refusal :=
  .next (s.modPlant fun p => p.offerWindowEnd stand)

/-- SHIP_WAIT_EXPIRY (R46). -/
def execShipWaitExpiry (stand : Nat) (s : State) : Host.Outcome State Fault Refusal :=
  .next (s.modPlant fun p => p.shipWaitEnd stand)

/-- RETRY_EXPIRY (R49). -/
def execRetryExpiry (stand : Nat) (s : State) : Host.Outcome State Fault Refusal :=
  .next (s.modPlant fun p => p.retryEnd stand)

/-- CALLER_LANDING_EXPIRY (R48). -/
def execCallerLandingExpiry (link : Nat) (s : State) : Host.Outcome State Fault Refusal :=
  .next (s.modPlant fun p => p.callerLandingEnd link).settle

/-- HOLD_EXPIRY (R57). -/
def execHoldExpiry (caller callNo : Nat) (s : State) : Host.Outcome State Fault Refusal :=
  .next (s.modPlant fun p => p.holdEnd caller callNo)

/-- COMING_REPEAT (R55). -/
def execComingRepeat (link : Nat) (s : State) : Host.Outcome State Fault Refusal :=
  .next (s.modPlant fun p => p.repeatComing link)

/-- ACCEPT_WAIT_EXPIRY (R59, R62). -/
def execAcceptWaitExpiry (link : Nat) (s : State) : Host.Outcome State Fault Refusal :=
  .next (s.modPlant fun p => p.acceptWaitEnd link).settle

/-- CONVEYOR_CLEAR_EXPIRY (R60, R62). -/
def execConveyorClearExpiry (link : Nat) (s : State) : Host.Outcome State Fault Refusal :=
  .next (s.modPlant fun p => p.conveyorClearEnd link).settle

/-- GIVER_LANDING_EXPIRY (R61). -/
def execGiverLandingExpiry (link : Nat) (s : State) : Host.Outcome State Fault Refusal :=
  .next (s.modPlant fun p => p.giverLandingEnd link).settle

end Sys2Proof.Machine
end

