-- ==== Sys2Proof/Machine/Dispatch.lean ====
section
/-! DEFINITION. The meaning of each command: one arm per row of the table, one direct call each. -/
namespace Sys2Proof.Machine

def exec (i : Instr) (s : State) : Host.Outcome State Fault Refusal :=
  match i with
  | .coldReset => Sys2Proof.Machine.execColdReset s
  | .resetEnd => Sys2Proof.Machine.execResetEnd s
  | .imageRead memory => Sys2Proof.Machine.execImageRead memory s
  | .surveyEnd => Sys2Proof.Machine.execSurveyEnd s
  | .frameReceived line => Sys2Proof.Machine.execFrameReceived line s
  | .attemptStart => Sys2Proof.Machine.execAttemptStart s
  | .arbitrationLost => Sys2Proof.Machine.execArbitrationLost s
  | .attemptSucceeded => Sys2Proof.Machine.execAttemptSucceeded s
  | .attemptFailed => Sys2Proof.Machine.execAttemptFailed s
  | .silentEntry => Sys2Proof.Machine.execSilentEntry s
  | .silentEnd => Sys2Proof.Machine.execSilentEnd s
  | .call => Sys2Proof.Machine.execCall s
  | .offer => Sys2Proof.Machine.execOffer s
  | .take => Sys2Proof.Machine.execTake s
  | .close => Sys2Proof.Machine.execClose s
  | .gone => Sys2Proof.Machine.execGone s
  | .shipComing => Sys2Proof.Machine.execShipComing s
  | .shipReady => Sys2Proof.Machine.execShipReady s
  | .accept => Sys2Proof.Machine.execAccept s
  | .refuse => Sys2Proof.Machine.execRefuse s
  | .landed => Sys2Proof.Machine.execLanded s
  | .rollNotice => Sys2Proof.Machine.execRollNotice s
  | .edition => Sys2Proof.Machine.execEdition s
  | .amend => Sys2Proof.Machine.execAmend s
  | .editionEnd => Sys2Proof.Machine.execEditionEnd s
  | .divert => Sys2Proof.Machine.execDivert s
  | .requestTally => Sys2Proof.Machine.execRequestTally s
  | .requestStatus => Sys2Proof.Machine.execRequestStatus s
  | .offerWindowExpiry stand => Sys2Proof.Machine.execOfferWindowExpiry stand s
  | .shipWaitExpiry stand => Sys2Proof.Machine.execShipWaitExpiry stand s
  | .retryExpiry stand => Sys2Proof.Machine.execRetryExpiry stand s
  | .callerLandingExpiry link => Sys2Proof.Machine.execCallerLandingExpiry link s
  | .holdExpiry caller callNo => Sys2Proof.Machine.execHoldExpiry caller callNo s
  | .comingRepeat link => Sys2Proof.Machine.execComingRepeat link s
  | .acceptWaitExpiry link => Sys2Proof.Machine.execAcceptWaitExpiry link s
  | .conveyorClearExpiry link => Sys2Proof.Machine.execConveyorClearExpiry link s
  | .giverLandingExpiry link => Sys2Proof.Machine.execGiverLandingExpiry link s
  | .fieldAnswer modNo inputs => Sys2Proof.Machine.execFieldAnswer modNo inputs s
  | .missedScan modNo => Sys2Proof.Machine.execMissedScan modNo s
  | .moduleLost modNo => Sys2Proof.Machine.execModuleLost modNo s
  | .occupancyChange sec present => Sys2Proof.Machine.execOccupancyChange sec present s
  | .sectionTagRead sec cart manual loaded => Sys2Proof.Machine.execSectionTagRead sec cart manual loaded s
  | .stopTagRead stop cart manual loaded => Sys2Proof.Machine.execStopTagRead stop cart manual loaded s
  | .stopTagGone stop cart => Sys2Proof.Machine.execStopTagGone stop cart s
  | .startWaitExpiry cart => Sys2Proof.Machine.execStartWaitExpiry cart s
  | .transitExpiry cart => Sys2Proof.Machine.execTransitExpiry cart s
  | .transferTimeout cart => Sys2Proof.Machine.execTransferTimeout cart s
  | .rollSensorChange stop present => Sys2Proof.Machine.execRollSensorChange stop present s
  | .readyConfirm stand arm => Sys2Proof.Machine.execReadyConfirm stand arm s
  | .spliceNow stand => Sys2Proof.Machine.execSpliceNow stand s
  | .armLoadedChange stand arm present => Sys2Proof.Machine.execArmLoadedChange stand arm present s
  | .webPresentChange stand present => Sys2Proof.Machine.execWebPresentChange stand present s
  | .prepConfirm stop => Sys2Proof.Machine.execPrepConfirm stop s
  | .prepReject stop => Sys2Proof.Machine.execPrepReject stop s
  | .webPulse stand => Sys2Proof.Machine.execWebPulse stand s
  | .knife stand => Sys2Proof.Machine.execKnife stand s
  | .verifyPassed stand => Sys2Proof.Machine.execVerifyPassed stand s
  | .revolutionPulse stand arm => Sys2Proof.Machine.execRevolutionPulse stand arm s
  | .standbyPulse stand arm => Sys2Proof.Machine.execStandbyPulse stand arm s
  | .enterMatched stand => Sys2Proof.Machine.execEnterMatched stand s
  | .paste stand => Sys2Proof.Machine.execPaste stand s
  | .outputPulseEnd stand output => Sys2Proof.Machine.execOutputPulseEnd stand output s
  | .copyPulse => Sys2Proof.Machine.execCopyPulse s
  | .trimWindowEnd stand => Sys2Proof.Machine.execTrimWindowEnd stand s
  | .pressRunRise => Sys2Proof.Machine.execPressRunRise s
  | .pressRunFall => Sys2Proof.Machine.execPressRunFall s
  | .speedWindow => Sys2Proof.Machine.execSpeedWindow s
  | .pulseLost stand => Sys2Proof.Machine.execPulseLost stand s
  | .decelStopped stand => Sys2Proof.Machine.execDecelStopped stand s
  | .buttStopped stand arm => Sys2Proof.Machine.execButtStopped stand arm s

end Sys2Proof.Machine
end

