-- ==== Sys2Proof/Safety.lean ====
section
/-!
DEFINITION. What counts as a node in order: bounds and relations that the manual gives its tables and that every command
keeps, in the terms the statements use.
-/
namespace Sys2Proof.Machine

/-- The bus port in order: the two queues within their sizes (R176, R177), at most one frame in flight (R174), an ACTIVE
link with fewer than 8 failures and no end time, a SILENT one with 8, an end time and nothing in flight (R175), the event
number in one byte (R181), the five counters in 16 bits (R179). -/
structure BusPort.InOrder (b : BusPort) : Prop where
  rx : b.rx.length ≤ 16
  tx : b.tx.length ≤ 12
  oneFlying : (b.tx.filter (·.flying)).length ≤ 1
  active : b.link = .active → b.failures < 8 ∧ b.silentEnd = none
  silent : b.link = .silent → b.inFlight = false ∧ b.silentEnd.isSome = true
  silentCount : b.link = .silent → b.failures = 8
  eventNo : b.eventNo ≤ 255
  counters : b.overrun ≤ 65535 ∧ b.txDrop ≤ 65535 ∧ b.checkErr ≤ 65535 ∧ b.ignored ≤ 65535 ∧ b.silentEntries ≤ 65535

/-- The roll table in order: 64 indexes with generations 0 to 255 (R1), and no roll number in two records (R20). -/
structure RollsInOrder (rolls : List RollSlot) : Prop where
  size : rolls.length = 64
  generations : ∀ s ∈ rolls, s.gen ≤ 255
  distinct : ∀ (i j : Nat) (s t : RollSlot) (r q : Roll) (n : Nat), rolls[i]? = some s → rolls[j]? = some t →
    s.roll = some r → t.roll = some q → r.num = some n → q.num = some n → i = j

/-- The places of the plant agree with the roll table (R3): what a stop names as its roll is a record PLACED there, what it
expects one EXPECTED there, what a cart carries one CARRIED on it, and what an arm names one MOUNTED, READY, RUN or BUTT on
it. So no record is named by two places. -/
structure Plant.PlacesAgree (p : Plant) : Prop where
  stops : ∀ (x : Nat) (y : Stop) (h : Handle), p.stop? x = some y → y.roll = some h →
    ∃ r, p.roll? h = some r ∧ r.state = .placed ∧ r.loc = .stop x
  expected : ∀ (x : Nat) (y : Stop) (h : Handle), p.stop? x = some y → y.expected = some h →
    ∃ r, p.roll? h = some r ∧ r.state = .expected ∧ r.loc = .stop x
  carts : ∀ (c : Nat) (k : Cart) (h : Handle), p.cart? c = some k → k.load = some h →
    ∃ r, p.roll? h = some r ∧ r.state = .carried ∧ r.loc = .cart c
  arms : ∀ (n : Nat) (m : Arm) (a : ArmRec) (h : Handle), p.arm? n m = some a → a.roll = .record h →
    ∃ r, p.roll? h = some r ∧ (r.state = .mounted ∨ r.state = .ready ∨ r.state = .run ∨ r.state = .butt) ∧
      r.loc = .arm n m

/-- The held lists of the carts agree with the section records (R66, R68): no section twice in a cart's list, and each one
RESERVED for that cart or OCCUPIED by it. So no section is in two lists. -/
structure Plant.HoldsAgree (p : Plant) : Prop where
  distinct : ∀ (c : Nat) (k : Cart), p.cart? c = some k → k.held.Nodup
  holder : ∀ (c : Nat) (k : Cart) (n : Nat), p.cart? c = some k → n ∈ k.held →
    ∃ y, p.section? n = some y ∧ y.state.holder = some c

/-- The supply unit in order: one call record a stand at most (R40), at most 8 holds (R54), one a caller and call number
(R52), and at most one TAKEN hold a link (R52, R55). -/
structure Supply.InOrder (u : Supply) : Prop where
  calls : (u.calls.map (·.stand)).Nodup
  holds : u.holds.length ≤ 8
  distinct : (u.holds.map fun h => (h.caller, h.callNo)).Nodup
  taken : ((u.holds.filter (·.expiry.isNone)).map (·.link)).Nodup

/-- No stand's mark queue holds more than 4 marks (R162). -/
def State.MarksInOrder (s : State) : Prop := ∀ n w, s.waste? n = some w → w.marks.length ≤ 4

/-- The scheduler in order: at most 16 tasks, no task number twice, numbers 1 to 255 (R88). -/
structure Scheduler.InOrder (s : Scheduler) : Prop where
  size : s.queue.length ≤ 16
  distinct : (s.queue.map (·.num)).Nodup
  numbers : ∀ t ∈ s.queue, 1 ≤ t.num ∧ t.num ≤ 255
  next : 1 ≤ s.next ∧ s.next ≤ 255

/-- The place of a version in the edition: versions before the current one are COMPLETE, those after it PENDING, the
current one RUNNING or COMPLETE; with no current index all are PENDING (R149, R154, R157). -/
def versionPlace (cur : Option Nat) (i : Nat) (v : Version) : Bool :=
  match cur with
  | none => v.state == .pending
  | some k =>
    if i + 1 < k then v.state == .complete
    else if k < i + 1 then v.state == .pending
    else v.state == .running || v.state == .complete

/-- The edition record in order: gross is the sum of the six classes (R156), good is the sum of the versions' good counts
(R157), a version is COMPLETE exactly when it has its ordered count and has printed nothing while PENDING, at most six
versions (R150); a LOADED edition has versions and no current one (R150, R154). -/
structure EditionCounter.InOrder (e : EditionCounter) : Prop where
  gross : e.counts.gross =
    e.counts.good + e.counts.start + e.counts.splice + e.counts.brk + e.counts.manual + e.counts.overrun
  good : e.counts.good = (e.versions.map (·.good)).sum
  complete : ∀ v ∈ e.versions, v.good ≤ v.ordered ∧ (v.state = .complete ↔ v.good = v.ordered)
  pending : ∀ v ∈ e.versions, v.state = .pending → v.good = 0
  places : ∀ p ∈ e.versions.zipIdx, versionPlace e.cur p.2 p.1 = true
  current : ∀ k, e.cur = some k → 1 ≤ k ∧ k ≤ e.versions.length
  size : e.versions.length ≤ 6
  loaded : e.state = .loaded → e.cur = none ∧ e.versions ≠ []

/-! ### Terms of the statements -/

/-- The frame at the head of the receive queue is one that a command takes, fits its kind and is taken by its owner (R178). -/
structure State.Head (s : State) (r : FrameRow) (f : Frame) (rest : List Frame) : Prop where
  front : s.plant.bus.rx = f :: rest
  kind : r.takes f = true
  fits : f.lengthFits = true
  owner : s.plant.ownerTakes r f = true

/-- The node with the frame at the head of its receive queue gone. -/
def State.popped (s : State) (rest : List Frame) : State :=
  { s with plant := { s.plant with bus := { s.plant.bus with rx := rest } } }

/-- The command that hands over a frame. -/
def FrameRow.command : FrameRow → Instr
  | .call => .call
  | .offer => .offer
  | .take => .take
  | .close => .close
  | .gone => .gone
  | .shipComing => .shipComing
  | .shipReady => .shipReady
  | .accept => .accept
  | .refuse => .refuse
  | .landed => .landed
  | .rollNotice => .rollNotice
  | .edition => .edition
  | .amend => .amend
  | .editionEnd => .editionEnd
  | .divert => .divert
  | .requestTally => .requestTally
  | .requestStatus => .requestStatus

/-- A frame that the bus can carry: one byte each for kind, destination and source, a payload of at most 32 bytes. -/
structure Frame.Carried (f : Frame) : Prop where
  kind : f.kind < 256
  dest : f.dest < 256
  src : f.src < 256
  payload : f.payload.length ≤ 32

/-- In RUN a device's reading `v` is an event, from a module that is not lost; `t` is the node with the reading noted
(R187, R188). -/
structure State.Fires (s : State) (k : FieldPoint) (v : PointInput) (t : State) : Prop where
  run : s.plant.inRun = true
  event : ∃ (m pt : Nat) (r : ModuleRec), s.plant.wiring k = some (m, pt) ∧ s.plant.module? m = some r ∧ r.lost = false ∧
    isEvent (r.input pt) v = true ∧ t = { s with plant := s.plant.setInput m pt v }

/-- In RUN a button is wired to a module that is not lost (R187, R188). -/
structure State.Button (s : State) (k : FieldPoint) : Prop where
  run : s.plant.inRun = true
  wired : ∃ (m pt : Nat), s.plant.wiring k = some (m, pt) ∧ s.plant.moduleLost m = false

end Sys2Proof.Machine
end

