-- ==== Sys2Proof/Certificates/Slice0/Obligations.lean ====
section
/-!
DEFINITION. The statements for the provers, from the numbered rules of the spec. `exec c s = .next t` says that the command
completes and what it leaves: everything of `s` that `t` does not name is unchanged. Where a statement ends in `settle`, the
scheduler and the traffic controller bring the plant to rest at the end of the event (the model's choice, log 7).
-/
open Sys2Proof Sys2Proof.Machine

/-! ### The queue of commands, reset and the node states (11) -/

/-- A step takes the front command and runs it with the queue's rest. -/
def Obligations.StepRunsFrontCommand : Prop :=
  ∀ (c : Instr) (rest : List Instr) (s : State), s.pending = c :: rest → step s = exec c { s with pending := rest }

/-- With no command waiting only time passes: 1 us on the pulse clock, 1 ms on the node clock every 1,000 (the model's
choice, log 1). -/
def Obligations.IdleCountsTime : Prop :=
  ∀ s : State, s.pending = [] →
    step s = .next { s with plant := { s.plant with clock :=
      { ms := if s.plant.clock.sub < 999 then s.plant.clock.ms else s.plant.clock.ms + 1
        us := s.plant.clock.us + 1
        sub := if s.plant.clock.sub < 999 then s.plant.clock.sub + 1 else 0 } } }

/-- Every command is taken in every state (the model's choice, log 2): it answers a next state, leaves the queue of commands
alone (log 4) and takes no time (log 1). -/
def Obligations.EveryCommandCompletes : Prop :=
  ∀ (c : Instr) (s : State), ∃ t, exec c s = .next t ∧ t.pending = s.pending ∧ t.plant.clock = s.plant.clock

/-- After a cold reset: RESET; no node number, an ACTIVE link, empty queues, event number and counters 0; all 64 roll
records free with generation 0; no grades, calls, holds, links, sections, stops, carts or tasks; the press stop request
asserted; no edition and zero counters; no remainder, latch or gate. -/
def Obligations.ResetValues : Prop :=
  let p := State.reset.plant
  let q := State.reset.press
  (p.loader.node = .reset ∧ p.image = Image.empty) ∧
    (p.bus.number = none ∧ p.bus.link = .active ∧ p.bus.rx = [] ∧ p.bus.tx = [] ∧ p.bus.failures = 0 ∧ p.bus.eventNo = 0) ∧
    (p.bus.overrun = 0 ∧ p.bus.txDrop = 0 ∧ p.bus.checkErr = 0 ∧ p.bus.ignored = 0 ∧ p.bus.silentEntries = 0) ∧
    (p.rolls.length = 64 ∧ ∀ s ∈ p.rolls, s.gen = 0 ∧ s.roll = none) ∧
    (p.supply.calls = [] ∧ p.supply.nextCall = 0 ∧ p.supply.holds = [] ∧ p.supply.links = []) ∧
    (p.traffic.sections = [] ∧ p.traffic.stops = [] ∧ p.traffic.carts = []) ∧
    (p.sched.queue = [] ∧ p.sched.next = 1) ∧ (p.splice.stands = [] ∧ p.splice.pressStop = true) ∧
    (q.edition.state = .none ∧ q.edition.id = none ∧ q.edition.versions = [] ∧ q.edition.counts = Counters.zero ∧
      q.edition.unplanned = 0 ∧ q.edition.tallyNo = 0) ∧
    (q.waste.start = 0 ∧ q.waste.manual = 0 ∧ q.waste.latch = false ∧ q.waste.unattributed = 0 ∧ q.waste.gate = false)

/-- The invariants of Safety.lean hold right after reset: of the bus port, the roll table, the task queue, the edition record,
the supply unit, the mark queues, and the agreement of the roll records with the places that name them and of the sections with
the held lists of the carts. -/
def Obligations.ResetInOrder : Prop :=
  (State.reset.plant.bus.InOrder ∧ RollsInOrder State.reset.plant.rolls ∧ State.reset.plant.sched.InOrder ∧
    State.reset.press.edition.InOrder) ∧
    State.reset.plant.supply.InOrder ∧ State.reset.MarksInOrder ∧ State.reset.plant.PlacesAgree ∧
    State.reset.plant.HoldsAgree

/-- COLD_RESET from any state: every block has its reset values; the clocks run on and the press-run pin keeps its level
(log 1, log 2). RESET_END: RESET gives way to LOADING; in another node state nothing happens (log 2). -/
def Obligations.ColdResetFromAnyState : Prop :=
  ∀ s : State,
    exec .coldReset s = .next
      { plant := { State.reset.plant with clock := s.plant.clock, pressRun := s.plant.pressRun }
        press := State.reset.press, pending := s.pending } ∧
    (s.plant.loader.node = .reset → exec .resetEnd s =
      .next { s with plant := { s.plant with loader := { s.plant.loader with node := .loading } } }) ∧
    (s.plant.loader.node ≠ .reset → exec .resetEnd s = .next s)

/-- IMAGE_READ with a check that fails: HALTED; one CONFIG_FAULT with the reason and the offset if the image gave a node number in
1-30, otherwise no event at all. (The number that an image failing READ or CHECK gives is the model's choice, log 22.) With every
check passed: SURVEY; the node number is known; the survey and the speed window start now; and every table holds one record for
each record of the image, with its number: sections FREE and at STOP, stops and links with nothing (what an IDLE shipment record
holds is the model's choice, log 57), carts with nothing (state and load flag before the survey: log 5), stands IDLE with EMPTY
arms and estimators in NONE, K at K0 and no web counted (W_last: log 3), modules with no reading. The checks are spelled out over
the bytes of the layout of 10 section 10.6: READ, CHECK, FORMAT, COUNT, RANGE and REFERENCE, in this order, and the first that
fails gives the reason (R183). FORMAT gives the offset of the first field that fails, RANGE too, in image order; CHECK gives that
of the frame check (the model's choice, log 10); COUNT and REFERENCE give one that is not stated here. The image's records are
those at their places in the layout. -/
def Obligations.ImagesAreRefusedOrTaken : Prop :=
  ∀ (s : State) (memory : Option (List Byte)), s.plant.loader.node = .loading →
    (∀ why offset, imageFault memory = some (why, offset) →
      ∃ t, exec (.imageRead memory) s = .next t ∧ t.plant.loader.node = .halted ∧
        t.plant.bus = (match nodeNumberOf memory with
          | some n => ({ s.plant.bus with number := some n }).sendEvent (.configFault why offset)
          | none => { s.plant.bus with number := none })) ∧
    (imageFault memory = none →
      ∃ m t, imageReadable memory = some m ∧ exec (.imageRead memory) s = .next t ∧
        t.plant.loader = { node := .survey, surveyStart := s.plant.clock.ms, image := imageOf (m.take (imageLength m)) } ∧
        t.plant.bus = { s.plant.bus with number := nodeNumberOf memory } ∧
        t.press.web.windowEnd = s.plant.clock.ms + 250#32 ∧
        (let i := t.plant.loader.image
         let rising (l : List Nat) : Prop := l.Pairwise (· ≤ ·)
         let bare (a : ArmRec) : Prop := a.state = .empty ∧ a.roll = .none ∧ a.brake = 0 ∧ a.drive = 0 ∧ a.lastPulse = none ∧
           a.est.mode = .none ∧ a.est.dFilt = none ∧ a.est.sq = none ∧ a.est.lastCap = none ∧ a.est.rejects = 0 ∧
           a.est.suspect = false
         t.plant.traffic.sections = (List.range i.sections.length).map (fun k =>
           { num := k + 1, state := .free, level := .stop }) ∧
         t.plant.traffic.stops = i.stops.map (fun c =>
           { num := c.num, roll := none, expected := none, cart := none, claim := none, point := .ring, transfer := none
             warning := false, pending := none }) ∧
         t.plant.supply.links = (List.range i.links.length).map (fun k =>
           { num := k + 1, out := Outbound.idle, inb := Inbound.idle }) ∧
         t.plant.modules = i.modules.zipIdx.map (fun c =>
           { num := c.2 + 1, missed := 0, lost := false, answered := false, inputs := List.replicate c.1.points .nothing }) ∧
         (t.plant.traffic.carts.Perm (i.carts.map fun c =>
           { num := c.num, state := .idle, pos := none, load := none, loadFlag := false, leg := none, queued := none, held := []
             task := none, startWait := none, startsFrom := none, transit := none, transfer := none, arm := none
             lastFault := none, pending := none, noRecord := false, surveyReads := [] }) ∧
           rising (t.plant.traffic.carts.map (·.num))) ∧
         (t.press.web.stands.Perm (i.stands.map fun c =>
           { num := c.num, w := 0, k := c.k0, wLast := 0, v := 0, trimStart := none, trimCount := 0 }) ∧
           rising (t.press.web.stands.map (·.num))) ∧
         (t.press.waste.stands.Perm (i.stands.map fun c => { num := c.num, marks := [], folder := .none }) ∧
           rising (t.press.waste.stands.map (·.num))) ∧
         (t.plant.splice.stands.map (·.num)).Perm (i.stands.map (·.num)) ∧ rising (t.plant.splice.stands.map (·.num)) ∧
         (∀ y ∈ t.plant.splice.stands, y.runArm = none ∧ y.phase = .none ∧ y.matchedCount = 0 ∧ y.fireTime = none ∧
           y.spliceNow = false ∧ y.pastePos = none ∧ y.verifyStart = none ∧ y.broken = false ∧ y.runOut = false ∧
           y.requested = false ∧ y.lastAnswer = none ∧ y.pendingUnload = none ∧ bare y.armA ∧ bare y.armB))) ∧
    ((∀ m, memory = some m → fieldAt m 1 2 < 14 ∨ m.length < fieldAt m 1 2) → imageFault memory = some (1, 0)) ∧
    (∀ all, memory = some all → 14 ≤ fieldAt all 1 2 → fieldAt all 1 2 ≤ all.length →
      let m := all.take (fieldAt all 1 2)
      let b (o : Nat) : Nat := fieldAt m o 1
      let w (o : Nat) : Nat := fieldAt m o 2
      let d (o : Nat) : Nat := fieldAt m o 4
      let grade (k : Nat) : Nat := 14 + 8 * k
      let stand (k : Nat) : Nat := 142 + 45 * k
      let section_ (k : Nat) : Nat := stand (b 5) + 4 * k
      let stop (k : Nat) : Nat := section_ (b 6) + 6 * k
      let cart (k : Nat) : Nat := stop (b 7) + 2 * k
      let link (k : Nat) : Nat := cart (b 8) + 5 * k
      let module_ (k : Nat) : Nat := link (b 9) + 2 * k
      let check : Prop := frameCheck (m.take (w 1 - 2)) = w (w 1 - 2)
      let format : Prop := b 0 = 1 ∧ (b 3 = 1 ∨ b 3 = 2) ∧ b 13 = 0 ∧ w 1 = module_ (b 10) + 2
      let count : Prop := (b 3 = 1 → 1 ≤ b 5 ∧ b 5 ≤ 4) ∧ (b 3 = 2 → b 5 = 0) ∧ 4 ≤ b 6 ∧ b 6 ≤ 12 ∧ 1 ≤ b 8 ∧ b 8 ≤ 4 ∧
        b 8 + 2 ≤ b 6 ∧ 1 ≤ b 7 ∧ b 7 ≤ 40 ∧ ((List.range (b 7)).filter fun k => b (stop k + 1) == 1).length ≤ 32 ∧
        1 ≤ b 9 ∧ b 9 ≤ 4 ∧ 1 ≤ b 10 ∧ b 10 ≤ 16
      let fields : List (Nat × Nat × Nat × Nat) :=   -- offset, width, least and greatest value, in image order
        [(4, 1, 1, 30), (11, 2, 700, 1600)] ++
        ((List.range 16).flatMap fun k => let o := grade k
          [(o, 1, 40, 120), (o + 1, 2, 800, 3000), (o + 3, 2, 0, 20000), (o + 5, 2, 50, 2000), (o + 7, 1, 0, 3)]) ++
        ((List.range (b 5)).flatMap fun k => let o := stand k
          [(o, 1, 1, 4), (o + 4, 2, 60, 3600), (o + 6, 2, 20, 300), (o + 8, 1, 1, 15), (o + 9, 2, 500, 5000),
           (o + 11, 2, 10, 300), (o + 13, 4, 5000, 150000), (o + 17, 2, 200, 5000), (o + 19, 2, 0, 999),
           (o + 21, 4, 10000, 250000), (o + 25, 2, 0, 10000), (o + 27, 2, 0, 30000), (o + 29, 4, 1000, 100000),
           (o + 33, 4, 6553600, 26214400), (o + 37, 2, 100, 1000), (o + 39, 2, 50, 2000), (o + 41, 2, 100, 5000),
           (o + 43, 2, 50, 500)]) ++
        ((List.range (b 7)).flatMap fun k => let o := stop k
          [(o, 1, 1, 40), (o + 1, 1, 1, 8)] ++ if b (o + 1) = 1 then [(o + 5, 1, 0, 3)] else []) ++
        ((List.range (b 8)).map fun k => (cart k, 1, 1, 4)) ++ ((List.range (b 9)).map fun k => (link k, 1, 1, 30)) ++
        ((List.range (b 10)).flatMap fun k => let o := module_ k
          [(o, 1, 1, 254), (o + 1, 1, 1, 64)])
      let within (f : Nat × Nat × Nat × Nat) : Prop := f.2.2.1 ≤ fieldAt m f.1 f.2.1 ∧ fieldAt m f.1 f.2.1 ≤ f.2.2.2
      let configured (n : Nat) : Prop := 1 ≤ n ∧ n ≤ b 10
      let point (n pt : Nat) : Prop := configured n ∧ 1 ≤ pt ∧ pt ≤ b (module_ (n - 1) + 1)
      let stopIs (n kind : Nat) (extra : Option Nat) : Prop :=
        ∃ k < b 7, b (stop k) = n ∧ b (stop k + 1) = kind ∧ ∀ e, extra = some e → b (stop k + 5) = e
      let distinct (n : Nat) (at_ : Nat → Nat) : Prop := ∀ i < n, ∀ j < n, b (at_ i) = b (at_ j) → i = j
      let reference : Prop := distinct (b 7) stop ∧
        (∀ k < b 7, 1 ≤ b (stop k + 2) ∧ b (stop k + 2) ≤ b 6 ∧ point (b (stop k + 3)) (b (stop k + 4)) ∧
          point (b (stop k + 3)) (b (stop k + 4) + if b (stop k + 1) = 2 then 6 else 4)) ∧
        (∀ k < b 6, ∀ i, 1 ≤ i → i ≤ 3 → point (b (section_ k)) (b (section_ k + i))) ∧
        (∀ k < b 5, point (b (stand k + 3)) 6) ∧
        (∀ k < b 7, (b (stop k + 1) = 3 → ∃ i < b 5, b (stand i) = b (stop k + 5)) ∧
          (b (stop k + 1) = 8 → ∃ i < b 8, b (cart i) = b (stop k + 5)) ∧
          (b (stop k + 1) = 4 ∨ b (stop k + 1) = 5 → 1 ≤ b (stop k + 5) ∧ b (stop k + 5) ≤ b 9)) ∧
        (∃ k < b 7, b (stop k + 1) = 7) ∧
        (∀ k < b 8, stopIs (b (cart k + 1)) 8 (some (b (cart k)))) ∧
        (∀ k < b 5, stopIs (b (stand k + 1)) 3 (some (b (stand k))) ∧ stopIs (b (stand k + 2)) 2 none) ∧
        (∀ k < b 9, stopIs (b (link k + 1)) 4 (some (k + 1)) ∧ stopIs (b (link k + 2)) 5 (some (k + 1))) ∧
        distinct (b 9) link ∧ (∀ k < b 9, b (link k) ≠ b 4) ∧
        (∀ k < b 9, point (b (link k + 3)) (b (link k + 4))) ∧ distinct (b 5) stand ∧ distinct (b 8) cart
      (¬check → imageFault memory = some (2, w 1 - 2)) ∧
      (check → ¬format → imageFault memory =
        some (3, if b 0 ≠ 1 then 0 else if b 3 ≠ 1 ∧ b 3 ≠ 2 then 3 else if b 13 ≠ 0 then 13 else 1)) ∧
      (check → format → ¬count → ∃ o, imageFault memory = some (4, o)) ∧
      (check → format → count → ∀ before f after, fields = before ++ f :: after → (∀ g ∈ before, within g) → ¬within f →
        imageFault memory = some (5, f.1)) ∧
      (check → format → count → (∀ f ∈ fields, within f) →
        (¬reference → ∃ o, imageFault memory = some (6, o)) ∧ (reference → imageFault memory = none)) ∧
      (format → count → (∀ f ∈ fields, within f) → imageOf m = {
        cls := b 3, node := b 4, core := w 11
        grades := (List.range 16).map fun k => let o := grade k
          { caliper := b o, ds := w (o + 1), minReturn := w (o + 3), tension := w (o + 5), lane := b (o + 7) }
        stands := (List.range (b 5)).map fun k => let o := stand k
          { num := b o, standStop := b (o + 1), prepStop := b (o + 2), modNo := b (o + 3), callLead := w (o + 4)
            accelLead := w (o + 6), settleRevs := b (o + 8), minSpeed := w (o + 9), runOutMargin := w (o + 11)
            pathLen := d (o + 13), knifeOffset := w (o + 17), theta := w (o + 19), actuatorDelay := d (o + 21)
            pre := w (o + 25), post := w (o + 27), verifyLen := d (o + 29), k0 := d (o + 33), rpmMax := w (o + 37)
            torqueMax := w (o + 39), trimLen := w (o + 41), pulseWidth := w (o + 43) }
        sections := (List.range (b 6)).map fun k => let o := section_ k
          { modNo := b o, occPoint := b (o + 1), tagPoint := b (o + 2), drivePoint := b (o + 3) }
        stops := (List.range (b 7)).map fun k => let o := stop k
          { num := b o, sec := b (o + 2), modNo := b (o + 3), firstPoint := b (o + 4), extra := b (o + 5)
            kind := [StopKind.slot, .prep, .stand, .out, .inn, .dock, .scrap, .park].getD (b (o + 1) - 1) .slot }
        carts := (List.range (b 8)).map fun k => { num := b (cart k), parkStop := b (cart k + 1) }
        links := (List.range (b 9)).map fun k => let o := link k
          { neighbour := b o, outStop := b (o + 1), inStop := b (o + 2), convModule := b (o + 3), convPoint := b (o + 4) }
        modules := (List.range (b 10)).map fun k => { address := b (module_ k), points := b (module_ k + 1) } }))

/-- SURVEY_END, when 4 s have passed and every module has answered or is lost; before that nothing happens (log 2): the node enters
RUN, NODE_STARTED with the class takes the next event number, 0 where none was sent before (R182; sent ahead of the report's
events, log 15), and then the configured stops in increasing number and the arms, stand 1 arm A first, are reported (R19), the
carts placed, their loads taken and the ring sections judged (R87), the track of lost modules taken out of service, STOWs asked
for, of stops and then of carts not in FAULT or MANUAL (R99), and the plant settled; the image, the edition and the waste gate
stay. A SLOT, PREP, DOCK, IN or OUT stop that shows a roll gets an unknown PLACED record (R19); a SCRAP, PARK or STAND stop gets
none (for SCRAP and PARK DEDUCED, log 20). An arm that shows a roll gets an unknown MOUNTED one, or RUN as its stand's run arm when
survey pulses came (R147). A cart is placed by the readers' latest readings in the survey (R87, R185): a reading of a cart takes
the place of whatever that reader read before, and of the readers on modules not lost whose latest reading is the cart the newest
places it (which of several, and that a gone report leaves its reader with none, are the model's choices, log 16). A cart read
nowhere is in FAULT, one read at a stop stands there, IDLE or PARKED, one read in a FREE section holds it, HELD with its park leg,
and in MANUAL it is MANUAL; a loaded one gets an unknown CARRIED record; an occupied section with no cart is BLOCKED (R87), with
cause OCCUPANCY (the model's choice, log 42). A record PLACED without a reservation at a DOCK, IN or OUT stop gets a STOW, and a
loaded cart a STOW, or a REJECT of a rejected roll, CARRYING on it (R99; a full queue: O30). -/
def Obligations.SurveyEndEntersRun : Prop :=
  (∀ s : State,
    let started : State := ({ s with plant := { s.plant with loader := { s.plant.loader with node := .run } } }).event
      (.nodeStarted s.plant.image.cls)
    (s.plant.loader.node = .survey ∧ reached s.plant.clock.ms (s.plant.loader.surveyStart + 4000#32) = true ∧
        (∀ m ∈ s.plant.modules, m.answered = true ∨ m.lost = true) →
      let stops (p : Plant) : List StopCfg := (List.range 40).filterMap fun i => p.stopCfg (i + 1)
      let rolls : State := [1, 2, 3, 4].foldl (fun u n => (u.surveyArm n .a).surveyArm n .b)
        (started.modPlant fun p => (stops p).foldl Plant.surveyStop p)
      let carts (p : Plant) : Plant := p.traffic.carts.foldl Plant.surveyCart p
      let loads (p : Plant) : Plant := p.traffic.carts.foldl Plant.surveyLoad p
      let sections (p : Plant) : Plant :=
        ((List.range p.image.sections.length).map (· + 1)).foldl Plant.surveySection p
      let lost (ms : List ModuleRec) (p : Plant) : Plant :=
        ((ms.filter (·.lost)).map (·.num)).foldl Plant.trackLost p
      let atStops (p : Plant) : Plant := (stops p).foldl (fun q c => q.autoStow c.num) p
      let onCarts (p : Plant) : Plant :=
        (p.traffic.carts.filter fun c => c.state ≠ .fault ∧ c.state ≠ .manual).foldl (fun q c => q.onCartOrPend c.num) p
      exec .surveyEnd s = .next (rolls.modPlant fun p =>
        (onCarts (atStops (lost p.modules (sections (loads (carts p)))))).settle) ∧
      ∃ t, exec .surveyEnd s = .next t ∧ t.plant.loader = { s.plant.loader with node := .run } ∧
        t.press.edition = s.press.edition ∧ t.press.waste.gate = s.press.waste.gate) ∧
    (∀ n, s.plant.bus.number = some n → s.plant.bus.eventNo = 0 → s.plant.bus.tx.length < 12 →
      started.plant.bus = { s.plant.bus with
        eventNo := 1
        tx := s.plant.bus.tx ++ [{ flying := false, frame :=
          { kind := 48, dest := 0, src := n, payload := u8 1 ++ u8 0 ++ u8 s.plant.image.cls } }] }) ∧
    (s.plant.loader.node = .survey ∧ (reached s.plant.clock.ms (s.plant.loader.surveyStart + 4000#32) = false ∨
        ∃ m ∈ s.plant.modules, m.answered = false ∧ m.lost = false) →
      exec .surveyEnd s = .next s)) ∧
  (∀ (p : Plant) (c : StopCfg),
    let shows : Prop := (c.kind = .slot ∨ c.kind = .prep ∨ c.kind = .dock ∨ c.kind = .inn ∨ c.kind = .out) ∧
      p.sensor c.num = true ∧ p.stopLost c.num = false
    (∀ h q, shows → p.createRoll (unknownRoll p.core .placed (.stop c.num)) = some (h, q) →
      p.surveyStop c = q.modStop c.num fun y => { y with roll := some h }) ∧
    (¬shows → p.surveyStop c = p)) ∧
  (∀ (s : State) (n : Nat) (m : Arm) (st : Stand) (c : StandCfg), s.plant.stand? n = some st → s.plant.standCfg n = some c →
    let t := s.surveyArm n m
    let shows : Prop := s.plant.armLoaded n m = true ∧ s.plant.moduleLost c.modNo = false
    (¬shows → t = s) ∧
    (∀ h q, shows → s.plant.createRoll (unknownRoll s.plant.core .mounted (.arm n m)) = some (h, q) →
      ((st.arm m).surveyPulses = 0 ∨ st.runArm ≠ none → t = { s with plant := q.modArm n m fun a =>
        { a with state := .mounted, roll := .record h, brake := 1000, drive := 0 } }) ∧
      (0 < (st.arm m).surveyPulses → st.runArm = none →
        t.plant.stand? n = some { st.setArm m (fun a => { a with
          state := .run, roll := .record h
          est := { a.est with mode := .seeding, dFilt := none, sq := none, lastCap := none, rejects := 0,
                              suspect := false } }) with runArm := some m } ∧
        t.plant.roll? h = some { unknownRoll s.plant.core .mounted (.arm n m) with state := .run } ∧
        t.press.waste.stands = updateIf (fun w => w.num == n) (fun w => { w with marks := [], folder := .record h })
          s.press.waste.stands))) ∧
  (∀ (p : Plant) (c : Cart), p.cart? c.num = some c → c.leg = none → c.task = none →
    let q := p.surveyCart c
    (p.surveyedAt c = none → q.bus = p.bus.sendEvent (.cartFault c.num .notFound c.pos) ∧
      q.cart? c.num = some { c with state := .fault, queued := none, startWait := none, startsFrom := none, transit := none,
                                    transfer := none, lastFault := some .notFound }) ∧
    (∀ r x y, p.surveyedAt c = some r → r.pos = .stop x → p.stop? x = some y → y.cart = none →
      q.bus = p.bus ∧ q.stop? x = some { y with cart := some c.num, claim := some (y.claim.getD c.num) } ∧
      q.cart? c.num = some { c with
        pos := some (.stop x)
        loadFlag := r.loaded
        state := if r.manual = true then .manual else if p.parkStop c.num = some x then .parked else .idle }) ∧
    (∀ r n z, p.surveyedAt c = some r → r.pos = .sec n → p.section? n = some z → z.state = .free →
      q.bus = p.bus ∧ q.section? n = some { z with state := .occupied c.num } ∧
      (r.manual = true → q.cart? c.num = some { c with
        state := .manual, pos := some (.sec n), held := [n], loadFlag := r.loaded }) ∧
      (∀ x k y, r.manual = false → p.parkStop c.num = some x → p.stopCfg x = some k → p.stop? x = some y →
        y.claim = none → p.stopLost x = false → k.kind = .park → k.extra = c.num →
        q.cart? c.num = some { c with
          state := .held, pos := some (.sec n), held := [n], loadFlag := r.loaded
          leg := some { stop := x, task := none } }))) ∧
  (∀ (p : Plant) (c : Cart),
    let live (r : TagRead) : Prop := match r.pos with
      | .stop x => p.stopLost x = false
      | .sec n => ∃ k, p.sectionCfg n = some k ∧ p.moduleLost k.modNo = false
    (∀ older r newer, c.surveyReads = newer ++ r :: older → live r → (∀ y ∈ newer, ¬live y) → p.surveyedAt c = some r) ∧
    ((∀ r ∈ c.surveyReads, ¬live r) → p.surveyedAt c = none)) ∧
  (∀ (s : State) (m pt c : Nat) (manual loaded : Bool) (r : ModuleRec), s.plant.node = .survey →
    s.plant.module? m = some r → r.lost = false →
    let noted (v : PointInput) (f : Cart → Cart) : State := s.modPlant fun p =>
      { p.setInput m pt v with traffic := { p.traffic with carts := p.traffic.carts.map f } }
    let without (pos : Pos) (k : Cart) : Cart := { k with surveyReads := k.surveyReads.filter (·.pos != pos) }
    let reads (pos : Pos) (k : Cart) : Cart :=
      if k.num = c then
        { without pos k with
          surveyReads := { pos := pos, manual := manual, loaded := loaded } :: (without pos k).surveyReads, loadFlag := loaded }
      else without pos k
    (∀ n, s.plant.wiring (.sectionTag n) = some (m, pt) →
      exec (.sectionTagRead n c manual loaded) s = .next (noted (.tag c manual loaded) (reads (.sec n)))) ∧
    (∀ x, s.plant.wiring (.stopTag x) = some (m, pt) →
      exec (.stopTagRead x c manual loaded) s = .next (noted (.tag c manual loaded) (reads (.stop x))) ∧
      exec (.stopTagGone x c) s = .next (noted (.gone c) (without (.stop x))))) ∧
  (∀ (p : Plant) (c : Cart),
    (∀ h q, c.loadFlag = true → p.surveyedAt c ≠ none →
      p.createRoll (unknownRoll p.core .carried (.cart c.num)) = some (h, q) →
      p.surveyLoad c = q.modCart c.num fun k => { k with load := some h }) ∧
    (c.loadFlag = false ∨ p.surveyedAt c = none → p.surveyLoad c = p)) ∧
  (∀ (p : Plant) (n : Nat) (z : Section) (c : SectionCfg), p.section? n = some z → p.sectionCfg n = some c →
    (z.state = .free → p.occupied n = true → p.moduleLost c.modNo = false → p.someCartExpected n = false →
      p.surveySection n = (p.modSection n fun y => { y with state := .blocked, level := .stop }).event
        (.sectionBlocked n 1)) ∧
    (z.state ≠ .free ∨ p.occupied n = false ∨ p.moduleLost c.modNo = true ∨ p.someCartExpected n = true →
      p.surveySection n = p)) ∧
  (∀ (p : Plant) (x : Nat) (k : StopKind) (y : Stop), p.stopKind x = some k → p.stop? x = some y →
    let due (h : Handle) (r : Roll) : Prop := y.roll = some h ∧ p.roll? h = some r ∧ r.claim = .none ∧
      (k = .dock ∨ k = .inn ∨ k = .out)
    (∀ h r, due h r → p.autoStow x = p.askOrPend x .stow ∧
      (p.sched.queue.length < 16 → p.inTask h = false →
        ∃ t ∈ (p.autoStow x).sched.queue, t.kind = .stow ∧ t.roll = h ∧ t.src = .stop x ∧ t.state = .waiting)) ∧
    ((∀ h r, ¬due h r) → p.autoStow x = p)) ∧
  (∀ (p : Plant) (c : Cart), p.cart? c.num = some c → (∀ t ∈ p.sched.queue, t.noSlot = false) →
    (c.load = none → p.onCartOrPend c.num = p) ∧
    (∀ h r, c.load = some h → p.roll? h = some r → p.sched.queue.length < 16 → p.inTask h = false →
      ∃ t ∈ (p.onCartOrPend c.num).sched.queue, t.kind = (if r.rejected = true then .reject else .stow) ∧ t.roll = h ∧
        t.src = .cart c.num ∧ t.cart = some c.num ∧ t.state = .carrying))

/-- The node state changes only as R184 draws it: RESET to LOADING, LOADING to HALTED or SURVEY, SURVEY to RUN, and by a
cold reset to RESET; the image changes only while it is read and at a cold reset. -/
def Obligations.NodeStatesFollowTheirGraph : Prop :=
  ∀ s t : State, step s = .next t →
    t.plant.loader = s.plant.loader ∨
    ∃ c rest, s.pending = c :: rest ∧
      ((c = .coldReset ∧ t.plant.loader = State.reset.plant.loader) ∨
       (c = .resetEnd ∧ s.plant.loader.node = .reset ∧ t.plant.loader = { s.plant.loader with node := .loading }) ∨
       (∃ m, c = .imageRead m ∧ s.plant.loader.node = .loading ∧
          (t.plant.loader.node = .halted ∨ t.plant.loader.node = .survey)) ∨
       (c = .surveyEnd ∧ s.plant.loader.node = .survey ∧ t.plant.loader = { s.plant.loader with node := .run }))
/-! ### The reel bus (10) -/

/-- FRAME_RECEIVED on a port with a node number: a bad line (which lines hold a frame FramesReadBack spells out; also one whose byte
count its length byte does not match is bad: the model's choice, log 24) is dropped, counted and not acknowledged; a good frame is
acknowledged unless the link is SILENT, and joins the receive queue if it is for this node or for all and of a kind that
some block takes; with 16 frames queued it is lost and counted. A port without a number acknowledges, keeps and counts
nothing, and starts no attempt (R179). -/
def Obligations.FrameReceivedIsKeptOrCounted : Prop :=
  ∀ (s : State) (line : List Byte),
    (∀ n, s.plant.bus.number = some n → exec (.frameReceived line) s =
      .next { s with plant := { s.plant with bus := (
        match frameOfLine line with
        | none => { s.plant.bus with ackDriven := false, checkErr := min 65535 (s.plant.bus.checkErr + 1) }
        | some f =>
          let kept := (f.dest = n ∨ f.dest = 0) ∧ ((16 ≤ f.kind ∧ f.kind ≤ 24) ∨ (32 ≤ f.kind ∧ f.kind ≤ 37))
          { s.plant.bus with
            ackDriven := decide (s.plant.bus.link = .active)
            rx := if kept ∧ s.plant.bus.rx.length < 16 then s.plant.bus.rx ++ [f] else s.plant.bus.rx
            overrun := if kept ∧ 16 ≤ s.plant.bus.rx.length then min 65535 (s.plant.bus.overrun + 1)
              else s.plant.bus.overrun }) } }) ∧
    (s.plant.bus.number = none →
      exec (.frameReceived line) s =
        .next { s with plant := { s.plant with bus := { s.plant.bus with ackDriven := false } } } ∧
      exec .attemptStart s = .next s)

/-- ATTEMPT_START on a numbered port with an ACTIVE link and nothing in flight: the frame of the first class, the oldest
of it, is in flight; nothing else changes. -/
def Obligations.AttemptStartsWithFirstInQueueOrder : Prop :=
  ∀ (s : State) (n : Nat), s.plant.bus.number = some n → s.plant.bus.link = .active →
    (∀ e ∈ s.plant.bus.tx, e.flying = false) → s.plant.bus.tx ≠ [] →
    ∃ (i : Nat) (e : TxEntry), s.plant.bus.tx[i]? = some e ∧
      (∀ (j : Nat) (x : TxEntry), s.plant.bus.tx[j]? = some x →
        e.frame.cls < x.frame.cls ∨ (e.frame.cls = x.frame.cls ∧ i ≤ j)) ∧
      exec .attemptStart s = .next { s with plant := { s.plant with bus := { s.plant.bus with
        tx := s.plant.bus.tx.set i { e with flying := true } } } }

/-- The end of an attempt: lost arbitration leaves the frame and the failure count; success removes the frame, clears the
count, and puts a broadcast of a kind that a block takes in the node's own receive queue; a failure short of the eighth
leaves the frame and counts one. -/
def Obligations.AttemptEnds : Prop :=
  ∀ (s : State) (before after : List TxEntry) (e : TxEntry), s.plant.bus.tx = before ++ e :: after → e.flying = true →
    (∀ x ∈ before ++ after, x.flying = false) →
    exec .arbitrationLost s = .next { s with plant := { s.plant with bus := { s.plant.bus with
      tx := before ++ { e with flying := false } :: after } } } ∧
    exec .attemptSucceeded s = .next { s with plant := { s.plant with bus := { s.plant.bus with
      tx := before ++ after
      failures := 0
      rx := if e.frame.dest = 0 ∧ e.frame.takenKind = true ∧ s.plant.bus.rx.length < 16 then s.plant.bus.rx ++ [e.frame]
        else s.plant.bus.rx
      overrun := if e.frame.dest = 0 ∧ e.frame.takenKind = true ∧ 16 ≤ s.plant.bus.rx.length then
        min 65535 (s.plant.bus.overrun + 1) else s.plant.bus.overrun } } } ∧
    (s.plant.bus.failures < 7 → exec .attemptFailed s = .next { s with plant := { s.plant with bus := { s.plant.bus with
      tx := before ++ { e with flying := false } :: after
      failures := s.plant.bus.failures + 1 } } })

/-- The eighth failure in a row: SILENT for 1 s, one more silent entry. SILENT_ENTRY does the same for a port whose count
stands at 8, in a state that no step leaves (a step of ATTEMPT_FAILED, given by itself as a row of the table: the model's choice,
log 30); SILENT_END, once the 1 s is over, makes the link ACTIVE with the count at 0. The transmit queue is kept. -/
def Obligations.EightFailuresMakeTheLinkSilent : Prop :=
  ∀ s : State,
    let quiet (b : BusPort) : State := { s with plant := { s.plant with bus := { b with
      link := .silent, silentEnd := some (s.plant.clock.ms + 1000#32), failures := 8
      silentEntries := min 65535 (s.plant.bus.silentEntries + 1) } } }
    (∀ (before after : List TxEntry) (e : TxEntry), s.plant.bus.tx = before ++ e :: after → e.flying = true →
      (∀ x ∈ before ++ after, x.flying = false) → s.plant.bus.failures = 7 → s.plant.bus.link = .active →
      exec .attemptFailed s =
        .next (quiet { s.plant.bus with tx := before ++ { e with flying := false } :: after })) ∧
    (s.plant.bus.failures = 8 → s.plant.bus.link = .active → exec .silentEntry s = .next (quiet s.plant.bus)) ∧
    (∀ T : Ticks, s.plant.bus.link = .silent → s.plant.bus.silentEnd = some T → reached s.plant.clock.ms T = true →
      exec .silentEnd s = .next { s with plant := { s.plant with bus := { s.plant.bus with
        link := .active, silentEnd := none, failures := 0 } } })

/-- A frame sent while 12 are queued: when the lowest class not in flight is lower than the frame's, the youngest frame of
that class gives way; otherwise the frame is lost. Either way one frame is lost and counted (R177). -/
def Obligations.FullTransmitQueueLosesOneFrame : Prop :=
  ∀ (b : BusPort) (f : Frame), b.tx.length = 12 →
    (∀ (before after : List TxEntry) (e : TxEntry), b.tx = before ++ e :: after → e.flying = false →
      f.cls < e.frame.cls → (∀ x ∈ b.tx, x.flying = false → x.frame.cls ≤ e.frame.cls) →
      (∀ x ∈ after, x.flying = false → x.frame.cls ≠ e.frame.cls) →
      b.enqueue f = { b with
        tx := before ++ after ++ [{ frame := f, flying := false }], txDrop := min 65535 (b.txDrop + 1) }) ∧
    ((∀ e ∈ b.tx, e.flying = false → e.frame.cls ≤ f.cls) →
      b.enqueue f = { b with txDrop := min 65535 (b.txDrop + 1) })

/-- An event is a frame of kind 48 to destination 0 with its code, the event number and its parameters; the number then
goes up by one, 255 followed by 0; with room in the queue the frame joins its tail (R181). Code and parameters are those of R181's
table, one clause an event, each in the width of the field encodings (10.5), most significant byte first: an arm 1 A or 2 B (0 where
the stand has none: the model's choice, log 54), a place 0 and a stop, or a stand and an arm (of a notice, the two bytes it gave), a
position 0, 1 section or 2 stop and its number, a task kind 1 to 6, a cart fault's cause 1 to 5, a splice phase 0 to 6. (A D_meas
wider than its two bytes is a free value, log 11.) -/
def Obligations.EventsAreNumbered : Prop :=
  let byte (n : Nat) : Byte := BitVec.ofNat 8 n
  let two (n : Nat) : List Byte := [byte (n / 256), byte n]
  let four (n : Nat) : List Byte := [byte (n / 256 ^ 3), byte (n / 256 ^ 2), byte (n / 256), byte n]
  let five (n : Nat) : List Byte := byte (n / 256 ^ 4) :: four n
  let six (n : Nat) : List Byte := byte (n / 256 ^ 5) :: five n
  let arm (m : Option Arm) : Byte := match m with
    | none => 0
    | some .a => 1
    | some .b => 2
  let place (l : Place) : List Byte := match l with
    | .stop x => [0, byte x]
    | .arm s m => [byte s, arm (some m)]
    | .raw x y => [byte x, byte y]
  let position (l : Option Pos) : List Byte := match l with
    | none => [0, 0]
    | some (.sec n) => [1, byte n]
    | some (.stop x) => [2, byte x]
  let kind (k : TaskKind) : Byte := match k with
    | .feedPrep => 1
    | .feedMount => 2
    | .unload => 3
    | .ship => 4
    | .stow => 5
    | .reject => 6
  let fault (f : FaultCause) : Byte := match f with
    | .transit => 1
    | .transfer => 2
    | .unexpected => 3
    | .module => 4
    | .notFound => 5
  let phase (f : Phase) : Byte := match f with
    | .none => 0
    | .accel => 1
    | .matched => 2
    | .armed => 3
    | .pasted => 4
    | .verify => 5
    | .decel => 6
  (∀ (b : BusPort) (e : Event) (n : Nat), b.number = some n → b.tx.length < 12 →
    b.sendEvent e = { b with
      eventNo := if 255 ≤ b.eventNo then 0 else b.eventNo + 1
      tx := b.tx ++ [{ flying := false
                       frame := { kind := 48, dest := 0, src := n,
                                  payload := byte e.body.1 :: byte b.eventNo :: e.body.2 } }] }) ∧
  (∀ cls, (Event.nodeStarted cls).body = (1, [byte cls])) ∧
  (∀ reason offset, (Event.configFault reason offset).body = (2, byte reason :: two offset)) ∧
  (∀ no l, (Event.tableFull no l).body = (3, five no ++ place l)) ∧
  (∀ no l reason, (Event.rollConflict no l reason).body = (4, five no ++ place l ++ [byte reason])) ∧
  (∀ no l, (Event.rollLost no l).body = (5, five no ++ place l)) ∧
  (∀ stand, (Event.standUnidentified stand).body = (6, [byte stand])) ∧
  Event.storageFull.body = (7, []) ∧
  (∀ stop input, (Event.prepRefused stop input).body = (8, [byte stop, byte input])) ∧
  (∀ stand grade width least, (Event.callUnmet stand grade width least).body =
    (9, byte stand :: byte grade :: (two width ++ four least))) ∧
  (∀ stand cause reason, (Event.callFailed stand cause reason).body = (10, [byte stand, byte cause, byte reason])) ∧
  (∀ link call no, (Event.transferUnconfirmed link call no).body = (11, byte link :: byte call :: five no)) ∧
  (∀ link call no reason, (Event.shipRefused link call no reason).body =
    (12, byte link :: byte call :: (five no ++ [byte reason]))) ∧
  (∀ link no, (Event.conveyorFault link no).body = (13, byte link :: five no)) ∧
  (∀ sec cause, (Event.sectionBlocked sec cause).body = (14, [byte sec, byte cause])) ∧
  (∀ cart cause l, (Event.cartFault cart cause l).body = (15, byte cart :: fault cause :: position l)) ∧
  (∀ cart l, (Event.cartManual cart l).body = (16, byte cart :: position l)) ∧
  (∀ cart l, (Event.cartAuto cart l).body = (17, byte cart :: position l)) ∧
  (∀ k, (Event.taskQueueFull k).body = (18, [kind k])) ∧
  (∀ task k no cause, (Event.taskFailed task k no cause).body =
    (19, byte task :: kind k :: (five no ++ [byte cause]))) ∧
  (∀ stand m dFilt dMeas, dMeas ≤ 65535 → (Event.diameterSuspect stand m dFilt dMeas).body =
    (20, byte stand :: arm (some m) :: (two dFilt ++ two dMeas))) ∧
  (∀ stand m dFilt, (Event.pulseLost stand m dFilt).body = (21, byte stand :: arm (some m) :: two dFilt)) ∧
  (∀ stand k cause, (Event.trimLimit stand k cause).body = (22, byte stand :: (four k ++ [byte cause]))) ∧
  (∀ stand m old new, (Event.spliceDone stand m old new).body = (23, byte stand :: arm m :: (five old ++ five new))) ∧
  (∀ stand m, (Event.spliceFailed stand m).body = (24, [byte stand, arm m])) ∧
  (∀ stand cause, (Event.spliceAborted stand cause).body = (25, [byte stand, byte cause])) ∧
  (∀ stand f, (Event.spliceRefused stand f).body = (26, [byte stand, phase f])) ∧
  (∀ stand m, (Event.webBreak stand m).body = (27, [byte stand, arm m])) ∧
  (∀ stand m dFilt, (Event.runOut stand m dFilt).body = (28, byte stand :: arm (some m) :: two dFilt)) ∧
  (∀ code id reason, (Event.editionRefused code id reason).body = (29, byte code :: (two id ++ [byte reason]))) ∧
  (∀ id version reason, (Event.amendRefused id version reason).body = (30, two id ++ [byte version, byte reason])) ∧
  (∀ id version ordered good, (Event.versionDone id version ordered good).body =
    (31, two id ++ byte version :: (four ordered ++ four good))) ∧
  (∀ id, (Event.editionDone id).body = (32, two id)) ∧
  (∀ stand (w : WebPos) old new, (Event.markForced stand w old new).body =
    (33, byte stand :: (six w.toNat ++ five old ++ five new))) ∧
  (∀ n, (Event.divertRefused n).body = (34, two n))

/-- A frame at the head of the receive queue is handed to its owner exactly when its length fits its kind (R150 for an EDITION)
and the table of R178 gives it one: a CALL or CLOSE in RUN whatever the destination, the other supply kinds and a ROLL NOTICE in
RUN unless sent to destination 0, the edition kinds and a REQUEST for TALLY only on a LINE node too, a REQUEST for STATUS also
in SURVEY and HALTED. Any other is removed and counted, and nothing else changes. (A SHIP or REQUEST of no known stage or subject
is offered to either of its two commands: the model's choice, log 25.) -/
def Obligations.UntakenFramesAreIgnored : Prop :=
  ∀ (s : State) (r : FrameRow) (f : Frame) (rest : List Frame), s.plant.bus.rx = f :: rest → r.takes f = true →
    let n := f.payload.length
    let run : Prop := s.plant.loader.node = .run
    let fits : Prop := match r with
      | .call => n = 8
      | .offer => n = 12
      | .take | .gone | .accept | .landed => n = 6
      | .close => n = 1
      | .refuse | .amend => n = 7
      | .shipComing => n = 7 ∧ f.num 1 1 = 1
      | .shipReady => n = 19 ∧ f.num 1 1 = 2
      | .rollNotice => n = 19
      | .edition => 8 ≤ n ∧ (f.num 7 1 = 0 ∨ 6 < f.num 7 1 ∨ n = 8 + 4 * f.num 7 1)
      | .editionEnd | .divert => n = 2
      | .requestTally => n = 3 ∧ f.num 0 1 = 1
      | .requestStatus => n = 3 ∧ f.num 0 1 = 2
    let taken : Prop := match r with
      | .call | .close => run
      | .offer | .take | .gone | .shipComing | .shipReady | .accept | .refuse | .landed | .rollNotice => run ∧ f.dest ≠ 0
      | .edition | .amend | .editionEnd | .divert | .requestTally => run ∧ s.plant.image.cls = 1 ∧ f.dest ≠ 0
      | .requestStatus => (run ∧ f.dest ≠ 0) ∨ s.plant.loader.node = .survey ∨ s.plant.loader.node = .halted
    (s.Head r f rest ↔ fits ∧ taken) ∧
    (¬(fits ∧ taken) → exec r.command s = .next { s with plant := { s.plant with bus := { s.plant.bus with
      rx := rest, ignored := min 65535 (s.plant.bus.ignored + 1) } } })

/-- Every step keeps the bus port in order: 16 and 12 frames at most, one in flight at most, an ACTIVE link short of eight
failures and a SILENT one at eight, one-byte event numbers, 16-bit counters. -/
def Obligations.StepsKeepTheBusPortInOrder : Prop :=
  ∀ s t : State, s.plant.bus.InOrder → step s = .next t → t.plant.bus.InOrder

/-- A frame laid out on the line is read back as it was (10 section 10.1); and a line holds a frame only if its bytes are that frame's,
kind, destination, source, length, payload and check: with a length byte above 32, or a check that is not that of the bytes before it,
it holds none (R176). A line with a byte count other than the length byte's holds none either (the model's choice, log 24). -/
def Obligations.FramesReadBack : Prop :=
  (∀ f : Frame, f.Carried → frameOfLine f.line = some f) ∧
  (∀ (line : List Byte) (f : Frame), frameOfLine line = some f → f.Carried ∧ f.line = line) ∧
  (∀ kind dest src : Byte, ∀ length : Byte, ∀ (payload : List Byte) (check : Nat), check < 65536 →
    let body := kind :: dest :: src :: length :: payload
    (32 < length.toNat → frameOfLine (body ++ u16 check) = none) ∧
    (check ≠ frameCheck body → frameOfLine (body ++ u16 check) = none) ∧
    (length.toNat ≠ payload.length → frameOfLine (body ++ u16 check) = none) ∧
    (length.toNat = payload.length → payload.length ≤ 32 → check = frameCheck body →
      frameOfLine (body ++ u16 check) = some { kind := kind.toNat, dest := dest.toNat, src := src.toNat, payload := payload }))

/-- A REQUEST for STATUS is answered to its source with one frame of kind 66: absent outside the sections, outside
RUN for every section but NODE and FIELD, for an item that is not there, and for STAND, MARK, WASTE and EDITION of a STORE node; else
present, with what R180 lists for the section, taken from the state as it is. (The widths, the codes and the 0 for what is absent are
the model's choice, log 12; so are the class byte after an image that was refused, log 22, the 0 for an unlimited need, log 13, the byte
for the splice window, log 50, and when a module turns from configured to scanned, log 55; the output-valid line is read from the
state: DEDUCED, log 14; a slot that shows a carted roll is not EMPTY, log 56.) -/
def Obligations.StatusRequestsAreAnswered : Prop :=
  ∀ (s : State) (f : Frame) (rest : List Frame), s.Head .requestStatus f rest →
    let p := s.plant
    let b := p.bus
    let sec := f.num 1 1
    let item := f.num 2 1
    let line : Prop := p.image.cls = 1
    let flag (on : Bool) : List Byte := u8 (if on = true then 1 else 0)
    let num (h : Option Handle) : Nat := ((h.bind p.roll?).bind (·.num)).getD 0
    let refNum (y : RollRef) : Nat := ((p.refRoll y).bind (·.num)).getD 0
    let legTo (l : Option Leg) : Nat := (l.map (·.stop)).getD 0
    ∃ contents, exec .requestStatus s = .next { s.popped rest with
        plant := (s.popped rest).plant.send f.src (.status sec item contents) } ∧
      (12 < sec ∨ sec = 0 → contents = none) ∧
      (p.loader.node ≠ .run → sec ≠ 1 → sec ≠ 12 → contents = none) ∧
      (¬line → 8 ≤ sec → sec ≤ 11 → contents = none) ∧
      (item ≠ 0 → (1 ≤ sec ∧ sec ≤ 4) ∨ 10 ≤ sec → contents = none) ∧
      (sec = 1 → item = 0 → contents = some (u8 p.loader.node.code ++ u8 p.image.cls ++ u8 b.link.code ++
        u32 b.overrun ++ u32 b.txDrop ++ u32 b.checkErr ++ u32 b.ignored ++ u32 b.silentEntries ++
        u8 (p.rolls.filter fun y => y.roll.isSome).length ++ u8 p.sched.queue.length)) ∧
      (sec = 12 → item = 0 → contents = some (p.modules.flatMap fun m => u8 (
        if p.loader.node = .halted then 0 else if m.lost = true then 2 else if m.answered = true then 1 else 0))) ∧
      (p.loader.node = .run →
        (sec = 2 → item = 0 → contents = some ((List.range 4).flatMap fun l => u8 (p.stopCfgs.filter fun c =>
          c.kind == .slot && c.extra == l && !p.slotHolding c.num && !p.slotBound c.num && !p.stopLost c.num).length)) ∧
        (sec = 3 → item = 0 → contents = some (
          ([CallState.opened, .chosen, .inbound, .failed].flatMap fun k =>
            u8 (p.supply.calls.filter fun c => c.state == k).length) ++
          u8 (p.supply.holds.filter fun h => h.expiry.isSome).length ++
          u8 (p.supply.holds.filter fun h => h.expiry.isNone).length ++
          p.supply.links.flatMap fun l => u8 l.out.state.code ++ flag l.inb.expecting)) ∧
        (sec = 4 → item = 0 → contents = some (p.traffic.sections.flatMap fun y => match y.state with
          | .free => [0, 0]
          | .reserved c => u8 1 ++ u8 c
          | .occupied c => u8 2 ++ u8 c
          | .blocked => [3, 0])) ∧
        (sec = 5 → (p.stop? item = none ∨ p.stopKind item = none → contents = none) ∧
          ∀ y k, p.stop? item = some y → p.stopKind item = some k → contents = some (u8 (stopKindCode k) ++
            u40 (num y.roll) ++ u40 (num y.expected) ++ u8 (y.cart.getD 0) ++ u8 (y.claim.getD 0) ++
            flag (y.point != .ring) ++ flag (p.stopLost item) ++ u8 ((y.pending.map (·.code)).getD 0))) ∧
        (sec = 6 → (p.cart? item = none → contents = none) ∧ ∀ k, p.cart? item = some k → contents = some (
          u8 k.state.code ++ (match k.pos with
            | none => [0, 0]
            | some (.sec n) => u8 1 ++ u8 n
            | some (.stop n) => u8 2 ++ u8 n) ++
          u40 (num k.load) ++ u8 (legTo k.leg) ++ u8 (legTo k.queued) ++ u8 (k.held.getD 0 0) ++ u8 (k.held.getD 1 0) ++
          u8 (k.held.getD 2 0) ++ u8 (k.task.getD 0) ++ u8 ((k.lastFault.map (·.code)).getD 0))) ∧
        (sec = 7 → contents = (p.queueOrder[item]?).map fun o => u8 o.num ++ u8 o.kind.code ++ u8 o.cls ++
          u8 o.state.code ++ u16 o.urgency ++ u40 (num (some o.roll)) ++ u8 (o.cart.getD 0) ++ u8 o.suspensions ++
          flag o.noSlot) ∧
        (line → sec = 8 → (p.stand? item = none ∨ s.web? item = none → contents = none) ∧
          ∀ y w, p.stand? item = some y → s.web? item = some w → contents = some (
            flag y.runArm.isSome ++ u8 (match y.runArm with
              | none => 0
              | some .a => 1
              | some .b => 2) ++
            u8 y.phase.code ++
            u8 ((if y.broken = true then 1 else 0) + (if y.runOut = true then 2 else 0) +
              if y.requested = true then 4 else 0) ++
            u8 y.armA.state.code ++ u8 y.armB.state.code ++ u48 (WebAcc.whole w.w) ++ u16 w.v ++ u32 w.k ++
            u16 ((y.runArm.bind fun m => (y.arm m).est.dFilt).getD 0) ++ u16 y.timeToSplice ++
            u32 ((s.press.edition.need item).getD 0) ++ u8 (match y.lastAnswer with
              | some .selected => 0
              | some .called => 1
              | some .unmatched => 2
              | some .deferred => 3
              | none => 4) ++
            flag (p.outputValid item))) ∧
        (line → sec = 9 → contents = if 16 ≤ item then none
          else ((s.waste? (item / 4 + 1)).bind fun w => w.marks[item % 4]?).map fun m => u48 m.pos ++
            u40 (refNum m.old) ++ u40 (refNum m.new) ++ flag m.reached ++ flag (s.windowOpen (item / 4 + 1))) ∧
        (line → sec = 10 → item = 0 → contents = some (u16 s.press.waste.start ++ u16 s.press.waste.manual ++
          flag s.press.waste.latch ++ u32 s.press.waste.unattributed ++
          s.press.waste.stands.flatMap fun w => u40 (refNum w.folder))) ∧
        (line → sec = 11 → item = 0 → contents = some (u8 s.press.edition.state.code ++
          u16 (s.press.edition.id.getD 0) ++ u8 (s.press.edition.cur.getD 0) ++
          (s.press.edition.versions.flatMap fun v => u8 v.state.code) ++ u32 s.press.edition.unplanned)))

/-- CALL: with a usable link, no own call for such paper, no hold for it yet and a free hold entry, the roll that costs least, then
is oldest, then stands lowest is claimed HOLD, a hold of 3 s is made and one OFFER is queued. No OFFER is sent without a link to the
sender, on a link that is not IDLE or has a TAKEN hold, to an OUT stop that is not empty or is lost, to a caller and call that has a
hold, while a call of this LINE node wants such paper, with 8 holds, or without a roll that may be offered: a PLACED record in an
available slot with no claim, known, not rejected, of the call's grade and width (within 5 mm) and long enough. The cost,
which the OFFER carries, is the ring sections passed in ring direction from the slot's section to the OUT stop's, at most 255 (R53). -/
def Obligations.CallsAreAnsweredWithOneOffer : Prop :=
  ∀ (s : State) (f : Frame) (rest : List Frame), s.Head .call f rest →
    let grade := f.num 1 1
    let width := f.num 2 2
    (s.plant.linkTo f.src = none → exec .call s = .next (s.popped rest)) ∧
    (∀ (n : Nat) (l : LinkRec) (cfg : LinkCfg), s.plant.linkTo f.src = some n →
      s.plant.link? n = some l → s.plant.linkCfg n = some cfg →
      (∀ x : Standing, l.out.state = .idle →
        (∀ h ∈ s.plant.supply.holds, h.link = l.num → h.expiry ≠ none) →
        s.plant.stopEmpty cfg.outStop = true → s.plant.stopLost cfg.outStop = false →
        (∀ h ∈ s.plant.supply.holds, h.caller = f.src → h.callNo ≠ f.callNo) →
        s.plant.ownCallFor grade width = false → s.plant.supply.holds.length < 8 →
        x ∈ s.plant.offerable f →
        (∀ y ∈ s.plant.offerable f, y = x ∨
          [s.plant.costFrom x.stop cfg.outStop, youth x.r.dock, x.stop] <
            [s.plant.costFrom y.stop cfg.outStop, youth y.r.dock, y.stop]) →
        exec .call s = .next ((s.popped rest).modPlant fun p =>
          ({ p.modRoll x.h (fun r => { r with claim := .hold f.src f.callNo }) with
            supply := { p.supply with holds := p.supply.holds ++
              [({ roll := x.h, caller := f.src, callNo := f.callNo, link := l.num,
                  expiry := some (p.clock.ms + 3000#32) } : Hold)] } }).send f.src
            (.offer f.callNo (numOr0 x.r.num) (p.costFrom x.stop cfg.outStop) x.r.dock))) ∧
      (l.out.state ≠ .idle ∨ (∃ h ∈ s.plant.supply.holds, h.link = l.num ∧ h.expiry = none) ∨
          s.plant.stopEmpty cfg.outStop = false ∨ s.plant.stopLost cfg.outStop = true ∨
          (∃ h ∈ s.plant.supply.holds, h.caller = f.src ∧ h.callNo = f.callNo) ∨
          s.plant.ownCallFor grade width = true ∨ 8 ≤ s.plant.supply.holds.length ∨ s.plant.offerable f = [] →
        exec .call s = .next (s.popped rest))) ∧
    (s.plant.ownCallFor grade width = true ↔ s.plant.image.cls = 1 ∧
      ∃ c ∈ s.plant.supply.calls, c.grade = grade ∧ c.width ≤ width + 5 ∧ width ≤ c.width + 5) ∧
    (∀ x : Standing, x ∈ s.plant.offerable f ↔ s.plant.roll? x.h = some x.r ∧ x.r.state = .placed ∧ x.r.loc = .stop x.stop ∧
      s.plant.stopKind x.stop = some .slot ∧ s.plant.stopLost x.stop = false ∧ x.r.claim = .none ∧
      x.r.unknown = false ∧ x.r.rejected = false ∧ x.r.grade = some grade ∧
      (∃ w, x.r.width = some w ∧ w ≤ width + 5 ∧ width ≤ w + 5) ∧ 0 < s.plant.storedRemaining x.r ∧
      f.num 4 4 ≤ s.plant.storedRemaining x.r) ∧
    (∀ x out a b : Nat, s.plant.stopSec x = some a → s.plant.stopSec out = some b →
      1 ≤ a → a ≤ s.plant.ringSize → 1 ≤ b → b ≤ s.plant.ringSize →
      s.plant.costFrom x out = min 255 (if a ≤ b then b - a else b + s.plant.ringSize - a))

/-- OFFER: taken for an OPEN call from a linked node that has not offered on it; it becomes the best if there is none, if
its cost is lower, or if at equal cost its roll is older, or at equal age its node number is lower. Any other is ignored. The call
meant is the oldest of the live calls with its number (the model's choice where there are two, log 41); a dock-sequence-present byte
above 1 counts as present (the model's choice, log 43). -/
def Obligations.OffersAreCompared : Prop :=
  ∀ (s : State) (f : Frame) (rest : List Frame), s.Head .offer f rest →
    (∀ c, s.plant.callNumbered f.callNo = some c → c.state = .opened → s.plant.linkTo f.src ≠ none →
      f.src ∉ c.offerers →
      exec .offer s = .next ((s.popped rest).modPlant fun p => p.modCall c.stand fun k =>
        let o : Offer := { node := f.src, roll := f.rollNo, cost := f.num 6 1, dock := f.offerDock }
        { k with
          offerers := k.offerers ++ [f.src]
          best := match k.best with
            | none => some o
            | some b =>
              if o.cost < b.cost ∨ (o.cost = b.cost ∧ (youth o.dock < youth b.dock ∨
                (youth o.dock = youth b.dock ∧ o.node < b.node))) then some o else some b })) ∧
    (s.plant.callNumbered f.callNo = none ∨ s.plant.linkTo f.src = none ∨
        (∃ c, s.plant.callNumbered f.callNo = some c ∧ (c.state ≠ .opened ∨ f.src ∈ c.offerers)) →
      exec .offer s = .next (s.popped rest))

/-- The order in which the offers of different nodes for one call (the oldest of its number, log 41) arrive does not change which
one is best (R42). -/
def Obligations.OfferOrderDoesNotMatter : Prop :=
  ∀ (p : Plant) (fs gs : List Frame) (c : Call), fs.Perm gs → (fs.map (·.src)).Nodup → (∀ f ∈ fs, f.callNo = c.num) →
    p.callNumbered c.num = some c → (p.supply.calls.map (·.stand)).Nodup →
    ((fs.foldl Plant.takeOffer p).callNumbered c.num).map (·.best) =
      ((gs.foldl Plant.takeOffer p).callNumbered c.num).map (·.best)

/-- The offer window's end: without an offer the call is FAILED for 30 s and CALL_UNMET is sent; with one, TAKE and then
CLOSE are queued and the call is CHOSEN with a SHIP wait of 5 s. -/
def Obligations.OfferWindowEnds : Prop :=
  ∀ (s : State) (n : Nat) (c : Call), s.plant.callOf? n = some c → c.state = .opened →
    reached s.plant.clock.ms c.expiry = true →
    (c.best = none → exec (.offerWindowExpiry n) s = .next (s.modPlant fun p =>
      (p.modCall n fun k => { k with state := .failed, expiry := p.clock.ms + 30000#32 }).event
        (.callUnmet n c.grade c.width c.minLen))) ∧
    (∀ b, c.best = some b → exec (.offerWindowExpiry n) s = .next (s.modPlant fun p =>
      ((p.send b.node (.take c.num b.roll)).send 0 (.close c.num)).modCall n fun k =>
        { k with state := .chosen, link := p.linkTo b.node, expiry := p.clock.ms + 5000#32 }))

/-- A COMING from the best offerer of a CHOSEN call with its number (the one live call of that number; of two the rule does not say
which is meant) sets the SHIP wait anew, 5 s from the step that takes the frame (that this hand-over is R44's arrival is the model's choice,
log 58); the call stays CHOSEN. A COMING that no call matches in this way is ignored and gets no reply (R44). -/
def Obligations.ComingKeepsTheCallAlive : Prop :=
  ∀ (s : State) (f : Frame) (rest : List Frame), s.Head .shipComing f rest →
    (∀ c b, c ∈ s.plant.supply.calls → c.num = f.callNo → (∀ d ∈ s.plant.supply.calls, d.num = f.callNo → d = c) →
      c.state = .chosen → c.best = some b → b.node = f.src →
      exec .shipComing s = .next ((s.popped rest).modPlant fun p => p.modCall c.stand fun k =>
        { k with expiry := p.clock.ms + 5000#32 })) ∧
    ((∀ c ∈ s.plant.supply.calls, ∀ b, c.num = f.callNo → c.best = some b → ¬(c.state = .chosen ∧ b.node = f.src)) →
      exec .shipComing s = .next (s.popped rest))

/-- A GONE from the best offerer of a CHOSEN call, or the end of its SHIP wait: FAILED for 30 s, and CALL_FAILED with
cause GONE or NO_SHIP. The retry interval of a FAILED call frees its record. (Of two live calls with the frame's number the
oldest is meant: the model's choice, log 41.) -/
def Obligations.ChosenCallsFailAndAreFreed : Prop :=
  ∀ s : State,
    (∀ (f : Frame) (rest : List Frame) (c : Call) (b : Offer), s.Head .gone f rest →
      s.plant.callNumbered f.callNo = some c → c.state = .chosen → c.best = some b → b.node = f.src →
      exec .gone s = .next ((s.popped rest).modPlant fun p =>
        (p.modCall c.stand fun k => { k with state := .failed, expiry := p.clock.ms + 30000#32 }).event
          (.callFailed c.stand 2 0))) ∧
    (∀ (n : Nat) (c : Call), s.plant.callOf? n = some c → c.state = .chosen →
      reached s.plant.clock.ms c.expiry = true → exec (.shipWaitExpiry n) s = .next (s.modPlant fun p =>
        (p.modCall n fun k => { k with state := .failed, expiry := p.clock.ms + 30000#32 }).event
          (.callFailed n 3 0))) ∧
    (∀ (n : Nat) (c : Call), s.plant.callOf? n = some c → c.state = .failed →
      reached s.plant.clock.ms c.expiry = true → exec (.retryExpiry n) s = .next (s.modPlant fun p =>
        { p with supply := { p.supply with calls := p.supply.calls.filter fun k => k.stand != n } }))

/-- TAKE: no such hold is answered GONE; a repeat for a TAKEN hold does nothing; a HELD one on a free link becomes TAKEN,
its roll's claim SHIP, a SHIP task to the OUT stop is made, the outbound record is CARRYING and the first COMING queued. On a link
that has a TAKEN hold or is not IDLE, the hold is released and freed and GONE is sent; so it is when the task queue is full, after
TASK_QUEUE_FULL if none was sent since the queue filled (R90), and no COMING goes out before that GONE (the model's choice, log 44). -/
def Obligations.TakesStartShipments : Prop :=
  ∀ (s : State) (f : Frame) (rest : List Frame), s.Head .take f rest →
    let held (h : Hold) : Bool :=
      h.caller == f.src && h.callNo == f.callNo && ((s.plant.roll? h.roll).bind (·.num)) == some f.rollNo
    (s.plant.supply.holds.find? held = none →
      exec .take s = .next ((s.popped rest).modPlant fun p => p.send f.src (.gone f.callNo f.rollNo)).settle) ∧
    (∀ h, s.plant.supply.holds.find? held = some h → h.expiry = none → exec .take s = .next (s.popped rest).settle) ∧
    (∀ h T, s.plant.supply.holds.find? held = some h → h.expiry = some T →
      (∃ o ∈ s.plant.supply.holds, o.link = h.link ∧ o.expiry = none) ∨
        (∀ l, s.plant.link? h.link = some l → l.out.state ≠ .idle) →
      exec .take s = .next ((s.popped rest).modPlant fun p =>
        { (p.send f.src (.gone f.callNo f.rollNo)).modRoll h.roll
            (fun r => if r.claim = .hold f.src f.callNo then { r with claim := .none } else r) with
          supply := { p.supply with holds := p.supply.holds.filter fun o => o != h } }).settle) ∧
    (∀ h T l x r, s.plant.supply.holds.find? held = some h → h.expiry = some T →
      (∀ o ∈ s.plant.supply.holds, o.link = h.link → o.expiry ≠ none) → s.plant.link? h.link = some l →
      l.out.state = .idle → s.plant.roll? h.roll = some r → r.claim = .hold f.src f.callNo → r.loc = .stop x →
      s.plant.inTask h.roll = false →
      (s.plant.sched.queue.length < 16 →
        ∃ q, exec .take s = .next ({ s.popped rest with plant := q }).settle ∧
          q.rolls = ((s.popped rest).plant.modRoll h.roll fun r => { r with claim := .ship h.link }).rolls ∧
          q.supply.holds = updateIf (fun o => o == h) (fun o => { o with expiry := none }) s.plant.supply.holds ∧
          q.supply.links = updateIf (fun k => k.num == h.link) (fun k => { k with out :=
            { state := .carrying, roll := some h.roll, caller := f.src, callNo := f.callNo,
              coming := some (s.plant.clock.ms + 2000#32), accept := none, clear := none, landing := none } })
            s.plant.supply.links ∧
          q.bus = (s.popped rest).plant.bus.send f.src (.shipComing f.callNo f.rollNo) ∧
          ∃ t ∈ q.sched.queue, t.kind = .ship ∧ t.roll = h.roll ∧ t.src = .stop x ∧ t.link = some h.link ∧
            t.state = .waiting ∧ t.dest = (s.plant.linkCfg h.link).map (·.outStop)) ∧
      (16 ≤ s.plant.sched.queue.length →
        ∃ q, exec .take s = .next ({ s.popped rest with plant := q }).settle ∧
          q.rolls = ((s.popped rest).plant.modRoll h.roll fun r => { r with claim := .none }).rolls ∧
          q.supply = { s.plant.supply with holds := s.plant.supply.holds.filter fun o => o.roll != h.roll } ∧
          q.traffic = s.plant.traffic ∧ q.sched = { s.plant.sched with fullSent := true } ∧
          q.bus = (if s.plant.sched.fullSent = true then (s.popped rest).plant.bus
            else (s.popped rest).plant.bus.sendEvent (.taskQueueFull .ship)).send f.src (.gone f.callNo f.rollNo)))

/-- CLOSE: a HELD hold of its sender and call number is released and freed; a TAKEN one, or none, is left alone. A HELD
hold's expiry does the same. -/
def Obligations.HoldsAreReleased : Prop :=
  ∀ s : State,
    let freed (h : Hold) (s : State) : State := s.modPlant fun p =>
      { p.modRoll h.roll (fun r => if r.claim = .hold h.caller h.callNo then { r with claim := .none } else r) with
        supply := { p.supply with holds := p.supply.holds.filter fun o => o != h } }
    (∀ (f : Frame) (rest : List Frame) (h : Hold) (T : Ticks), s.Head .close f rest →
      (s.plant.supply.holds.find? fun o => o.caller == f.src && o.callNo == f.callNo) = some h → h.expiry = some T →
      exec .close s = .next (freed h (s.popped rest))) ∧
    (∀ (f : Frame) (rest : List Frame), s.Head .close f rest →
      (∀ o ∈ s.plant.supply.holds, o.caller = f.src → o.callNo = f.callNo → o.expiry = none) →
      exec .close s = .next (s.popped rest)) ∧
    (∀ (caller callNo : Nat) (h : Hold) (T : Ticks),
      (s.plant.supply.holds.find? fun o => o.caller == caller && o.callNo == callNo) = some h → h.expiry = some T →
      reached s.plant.clock.ms T = true → exec (.holdExpiry caller callNo) s = .next (freed h s))

/-- READY (its out-of-range fields count as absent, roll number 0 as none, its dock sequence kept: the model's readings, log 21):
from an unlinked node it is refused NO_LINK; without a CHOSEN call that its sender serves, NO_CALL (the call meant is the oldest of
the live calls with its number: the model's choice where there are two, log 41); one that fails a check of R45 is refused with that
reason, the call is FAILED for 30 s and CALL_FAILED is sent, for a full table after TABLE_FULL (R21). The checks are made in the
order of R45's text, the full table before the duplicate number, and TABLE_FULL goes before the REFUSE (both orders are left open:
the model's choices, log 26). One that passes makes the EXPECTED record with the stand's claim, the ACCEPT, the EXPECTING inbound
record with a landing wait of 60 s, and the INBOUND call. -/
def Obligations.ReadyIsAnsweredAtOnce : Prop :=
  ∀ (s : State) (f : Frame) (rest : List Frame), s.Head .shipReady f rest →
    let sn := f.shipSnapshot.ranged
    (s.plant.linkTo f.src = none → exec .shipReady s =
      .next ((s.popped rest).modPlant fun p => p.send f.src (.refuse f.callNo sn.num 6))) ∧
    (s.plant.linkTo f.src ≠ none → s.plant.chosenCall f = none → exec .shipReady s =
      .next ((s.popped rest).modPlant fun p => p.send f.src (.refuse f.callNo sn.num 5))) ∧
    (∀ c why, s.plant.linkTo f.src ≠ none → s.plant.chosenCall f = some c → s.plant.shipRefusal c sn = some why →
      let refused (p : Plant) : Plant := ((p.send f.src (.refuse f.callNo sn.num why)).modCall c.stand fun k =>
        { k with state := .failed, expiry := p.clock.ms + 30000#32 }).event (.callFailed c.stand 1 why)
      (why ≠ 3 → exec .shipReady s = .next ((s.popped rest).modPlant refused)) ∧
      (∀ n cfg, why = 3 → c.link = some n → s.plant.linkCfg n = some cfg → exec .shipReady s =
        .next ((s.popped rest).modPlant fun p => refused (p.event (.tableFull sn.num (.stop cfg.inStop)))))) ∧
    (∀ c n l cfg, c.link = some n → s.plant.link? n = some l → s.plant.linkCfg n = some cfg →
      s.plant.shipRefusal c sn =
        if l.inb.expecting = true then some 1
        else if s.plant.stopEmpty cfg.inStop = false ∨ s.plant.stopLost cfg.inStop = true then some 1
        else if ¬(sn.grade = some c.grade ∧ ∃ w, sn.width = some w ∧ w ≤ c.width + 5 ∧ c.width ≤ w + 5) then some 2
        else if ∀ y ∈ s.plant.rolls, y.roll.isSome = true then some 3
        else if sn.num ≠ 0 ∧ ∃ y ∈ s.plant.rolls, y.roll.bind (·.num) = some sn.num then some 4
        else none) ∧
    (∀ c n cfg, s.plant.linkTo f.src ≠ none → s.plant.chosenCall f = some c → s.plant.shipRefusal c sn = none →
      c.link = some n → s.plant.linkCfg n = some cfg →
      ∃ h q, (s.popped rest).plant.createRoll
          (sn.roll s.plant.core .expected (.stop cfg.inStop) (.stand c.stand) sn.part) = some (h, q) ∧
        exec .shipReady s = .next { s.popped rest with plant := (
          (((q.modStop cfg.inStop fun x => { x with expected := some h }).send f.src (.accept c.num sn.num)).modLink n
            fun l => { l with inb := (
              { expecting := true, roll := some h, giver := f.src, callNo := c.num,
                landing := some (s.plant.clock.ms + 60000#32), claimed := true } : Inbound) }).modCall c.stand fun k =>
            { k with state := .inbound }) })

/-- An ACCEPT for an ASKING record starts the conveyor with a clear wait of 30 s and a landing wait of 60 s; a COMING
falls due every 2 s while the record is CARRYING. -/
def Obligations.ShipmentsAdvance : Prop :=
  ∀ s : State,
    (∀ (f : Frame) (rest : List Frame) (l : LinkRec), s.Head .accept f rest →
      s.plant.outboundFor f [.asking] = some l →
      exec .accept s = .next ((s.popped rest).modPlant fun p => p.modLink l.num fun k =>
        { k with out := { k.out with state := .conveying, accept := none, clear := some (p.clock.ms + 30000#32),
                                     landing := some (p.clock.ms + 60000#32) } })) ∧
    (∀ (f : Frame) (rest : List Frame), s.Head .accept f rest → s.plant.outboundFor f [.asking] = none →
      exec .accept s = .next (s.popped rest)) ∧
    (∀ (n : Nat) (l : LinkRec) (T : Ticks), s.plant.link? n = some l → l.out.state = .carrying →
      l.out.coming = some T → reached s.plant.clock.ms T = true →
      exec (.comingRepeat n) s = .next (s.modPlant fun p =>
        (p.modLink n fun k => { k with out := { k.out with coming := k.out.coming.map fun c => c + 2000#32 } }).send
          l.out.caller (.shipComing l.out.callNo (p.rollNoOf l.out.roll))))

/-- A shipment that ends without delivery, on a REFUSE or the ends of the ACCEPT and conveyor clear waits: its event, the
claim released, the outbound record IDLE and a STOW from the OUT stop (R62), then the plant settles. (The caller and the numbers of an
IDLE record are the model's choice, log 57.) With 16 tasks in the queue the STOW is refused FULL, after TASK_QUEUE_FULL if none was
sent since the queue filled (R90), and is the stop's pending item; so a stop keeps any task it could not have, a cart the STOW or
REJECT of its roll, a stand the UNLOAD of its arm (R38, R62, R100). A task that is removed, fails or finishes has the pending items
offered: of one free place the lowest stand's UNLOAD comes first, then the lowest cart's item, then stops by number, DOCK before PREP
before IN and OUT (PREP before IN and OUT: the model's choice, log 26; a cart's item is created in any cart state, log 62). Created
it is pending no longer, and the others stay; and no item is left pending while there is room, but of a roll that has no record or a
task already. -/
def Obligations.UndeliveredRollsAreStowed : Prop :=
  (∀ (s : State) (l : LinkRec) (h : Handle) (cfg : LinkCfg) (x : Stop),
    l.out.roll = some h → s.plant.linkCfg l.num = some cfg → s.plant.stop? cfg.outStop = some x → x.roll = some h →
    (s.plant.roll? h).isSome = true → s.plant.inTask h = false →
    let ended (b : BusPort) (q : Plant) : Prop :=
      q.rolls = (s.plant.modRoll h fun r => if r.claim = .ship l.num then { r with claim := .none } else r).rolls ∧
      q.supply = { s.plant.supply with
        links := updateIf (fun k => k.num == l.num) (fun k => { k with out := Outbound.idle }) s.plant.supply.links } ∧
      (s.plant.sched.queue.length < 16 → q.bus = b ∧
        ∃ t ∈ q.sched.queue, t.kind = .stow ∧ t.roll = h ∧ t.src = .stop cfg.outStop ∧ t.state = .waiting) ∧
      (16 ≤ s.plant.sched.queue.length →
        q.bus = (if s.plant.sched.fullSent = true then b else b.sendEvent (.taskQueueFull .stow)) ∧
        q.sched = { s.plant.sched with fullSent := true } ∧
        q.stop? cfg.outStop = some { x with pending := some .stow })
    (∀ (f : Frame) (rest : List Frame), s.Head .refuse f rest → s.plant.outboundFor f [.asking] = some l →
      ∃ q, exec .refuse s = .next ({ s with plant := q }).settle ∧
        ended ((s.popped rest).plant.bus.sendEvent (.shipRefused l.num l.out.callNo f.rollNo (f.num 6 1))) q) ∧
    (∀ (n : Nat) (T : Ticks), s.plant.link? n = some l → l.out.state = .asking → l.out.accept = some T →
      reached s.plant.clock.ms T = true →
      ∃ q, exec (.acceptWaitExpiry n) s = .next ({ s with plant := q }).settle ∧
        ended (s.plant.bus.sendEvent (.shipRefused n l.out.callNo (s.plant.rollNo h) 7)) q) ∧
    (∀ (n : Nat) (T : Ticks), s.plant.link? n = some l → l.out.state = .conveying → l.out.clear = some T →
      reached s.plant.clock.ms T = true →
      ∃ q, exec (.conveyorClearExpiry n) s = .next ({ s with plant := q }).settle ∧
        ended (s.plant.bus.sendEvent (.conveyorFault n (s.plant.rollNo h))) q)) ∧
  (∀ p : Plant,
    let loose (h : Handle) : Prop := (p.roll? h).isSome = true ∧ p.inTask h = false
    let full (k : TaskKind) (q : Plant) : Plant := { q with
      sched := { p.sched with fullSent := true }
      bus := if p.sched.fullSent = true then p.bus else p.bus.sendEvent (.taskQueueFull k) }
    let without (n : Nat) : List Nat := (p.sched.queue.map (·.num)).filter (· != n)
    let q := p.offerPending
    let idleStands (upTo : Nat) : Prop := ∀ i y, 1 ≤ i → i < upTo → p.stand? i = some y → y.pendingUnload = none
    let idleCarts (upTo : Nat) : Prop := ∀ i y, 1 ≤ i → i < upTo → p.cart? i = some y → y.pending = none
    let rank (k : StopKind) : Nat := match k with
      | .dock => 0
      | .prep => 1
      | .inn | .out => 2
      | .slot | .stand | .scrap | .park | .unknown => 3
    let spent (h : Handle) : Prop := q.roll? h = none ∨ q.inTask h = true
    (16 ≤ p.sched.queue.length →
      (∀ x st h k, p.stop? x = some st → st.roll = some h → loose h →
        p.askOrPend x k = full k (p.modStop x fun y => { y with pending := some k })) ∧
      (∀ n c h r, p.cart? n = some c → c.load = some h → loose h → p.roll? h = some r →
        (∀ t ∈ p.sched.queue, t.noSlot = false) →
        let k : TaskKind := if r.rejected = true then .reject else .stow
        p.onCartOrPend n = full k (p.modCart n fun y => { y with pending := some k })) ∧
      (∀ n m a h, p.arm? n m = some a → a.roll = .record h → loose h →
        p.unloadOrPend n m = full .unload (p.modStand n fun y => { y with pendingUnload := some m }))) ∧
    (∀ n t, p.task? n = some t →
      (∃ u : Plant, p.dropTask n = u.offerPending ∧ u.sched.queue.map (·.num) = without n) ∧
      ∀ why no, ∃ u : Plant, p.failTask n why no = u.offerPending ∧ without n <+: u.sched.queue.map (·.num)) ∧
    (∀ x c n, c.task = some n → p.stopKind x ≠ some .scrap →
      ∃ u : Plant, p.completeToStop x c = u.offerPending ∧ without n <+: u.sched.queue.map (·.num)) ∧
    (p.sched.queue.length = 15 →
      (∀ n st m h, 1 ≤ n → n ≤ 4 → p.stand? n = some st → st.pendingUnload = some m → (st.arm m).roll = .record h →
        loose h → idleStands n →
        (∃ t ∈ q.sched.queue, t.kind = .unload ∧ t.roll = h ∧ t.src = .arm n m ∧ t.state = .waiting) ∧
        q.sched.queue.length = 16 ∧ q.stand? n = some { st with pendingUnload := none } ∧
        (∀ i, i ≠ n → q.stand? i = p.stand? i) ∧ q.traffic = p.traffic) ∧
      (∀ n c h r, 1 ≤ n → n ≤ 4 → p.cart? n = some c → c.pending ≠ none → c.load = some h → loose h →
        p.roll? h = some r → idleStands 5 → idleCarts n →
        (∃ t ∈ q.sched.queue, t.kind = (if r.rejected = true then .reject else .stow) ∧ t.roll = h ∧ t.src = .cart n ∧
          t.cart = some n ∧ t.state = .carrying ∧ (q.cart? n).map (fun y => (y.task, y.pending)) = some (some t.num, none)) ∧
        q.sched.queue.length = 16 ∧ (∀ i, i ≠ n → (q.cart? i).map (·.pending) = (p.cart? i).map (·.pending)) ∧
        (∀ x, (q.stop? x).map (·.pending) = (p.stop? x).map (·.pending)) ∧ q.splice = p.splice) ∧
      (∀ x st kind k h, 1 ≤ x → x ≤ 40 → p.stop? x = some st → p.stopKind x = some kind → rank kind < 3 →
        st.pending = some k → st.roll = some h → loose h → idleStands 5 → idleCarts 5 →
        (∀ y z kind', p.stop? y = some z → p.stopKind y = some kind' → z.pending ≠ none →
          rank kind < rank kind' ∨ (rank kind = rank kind' ∧ x ≤ y)) →
        (∃ t ∈ q.sched.queue, t.kind = k ∧ t.roll = h ∧ t.src = .stop x ∧ t.state = .waiting) ∧
        q.sched.queue.length = 16 ∧ q.stop? x = some { st with pending := none } ∧
        (∀ y, y ≠ x → q.stop? y = p.stop? y) ∧ q.traffic.carts = p.traffic.carts ∧ q.splice = p.splice)) ∧
    (q.sched.queue.length < 16 →
      (∀ n st m h, 1 ≤ n → n ≤ 4 → q.stand? n = some st → st.pendingUnload = some m → (st.arm m).roll = .record h →
        spent h) ∧
      (∀ n c h, 1 ≤ n → n ≤ 4 → q.cart? n = some c → c.pending ≠ none → c.load = some h → spent h) ∧
      (∀ x st kind h, 1 ≤ x → x ≤ 40 → q.stop? x = some st → q.stopKind x = some kind → rank kind < 3 →
        st.pending ≠ none → st.roll = some h → spent h)))

/-- A shipment's end, on LANDED or the end of the giver's landing wait: the record is deleted, the outbound record is IDLE
(its conveyor off), and only the wait sends TRANSFER_UNCONFIRMED; then the plant settles. (The caller and the numbers of an IDLE
record are the model's choice, log 57.) -/
def Obligations.ShipmentsEnd : Prop :=
  ∀ (s : State) (l : LinkRec) (h : Handle), l.out.roll = some h → s.plant.inTask h = false →
    (∀ k ∈ s.plant.supply.links, k.out.roll = some h → k.out.state ≠ .carrying) →
    (∀ (f : Frame) (rest : List Frame), s.Head .landed f rest → s.plant.outboundFor f [.conveying, .inTransit] = some l →
      ∃ q, exec .landed s = .next ({ s with plant := q }).settle ∧ q.roll? h = none ∧
        (∀ k ∈ q.supply.links, k.num = l.num → k.out = Outbound.idle) ∧ q.bus = (s.popped rest).plant.bus) ∧
    (∀ (n : Nat) (T : Ticks), s.plant.link? n = some l → (l.out.state = .conveying ∨ l.out.state = .inTransit) →
      l.out.landing = some T → reached s.plant.clock.ms T = true →
      ∃ q, exec (.giverLandingExpiry n) s = .next ({ s with plant := q }).settle ∧ q.roll? h = none ∧
        (∀ k ∈ q.supply.links, k.num = n → k.out = Outbound.idle) ∧
        q.bus = s.plant.bus.sendEvent (.transferUnconfirmed n l.out.callNo (s.plant.rollNo h)))

/-- The end of the caller's landing wait: the EXPECTED record is deleted, the inbound record is IDLE,
TRANSFER_UNCONFIRMED is sent, and a claimed shipment's INBOUND call (the oldest of its number, log 41) is FAILED for 30 s; then the
plant settles. (The giver and the call number of an IDLE record are the model's choice, log 57.) -/
def Obligations.RollsThatDoNotLand : Prop :=
  ∀ (s : State) (n : Nat) (l : LinkRec) (h : Handle) (T : Ticks), s.plant.link? n = some l → l.inb.expecting = true →
    l.inb.roll = some h → l.inb.landing = some T → reached s.plant.clock.ms T = true → s.plant.inTask h = false →
    (∀ k ∈ s.plant.supply.links, k.out.roll = some h → k.out.state ≠ .carrying) →
    ∃ q, exec (.callerLandingExpiry n) s = .next ({ s with plant := q }).settle ∧ q.roll? h = none ∧
      q.bus = s.plant.bus.sendEvent (.transferUnconfirmed n l.inb.callNo (s.plant.rollNo h)) ∧
      (∀ k ∈ q.supply.links, k.num = n → k.inb = Inbound.idle) ∧
      q.supply.calls = (if l.inb.claimed = true then
        match s.plant.callNumbered l.inb.callNo with
        | some c => if c.state = .inbound then
            updateIf (fun k => k.stand == c.stand)
              (fun k => { k with state := .failed, expiry := s.plant.clock.ms + 30000#32 }) s.plant.supply.calls
          else s.plant.supply.calls
        | none => s.plant.supply.calls
      else s.plant.supply.calls)

/-! ### The roll table and the scheduler (01, 02, 05) -/

/-- ROLL_NOTICE with a roll number no record holds: a bad number, a known or expected roll in the place (an unknown EXPECTED one
too: the model's choice, log 21), a place that receives none and one that is not configured or names no arm (log 40) are conflicts
1 to 4; an unknown record standing in the place keeps everything but takes the number and the notice's fields (R16); an empty DOCK
or IN stop expects the new roll; a roll with no record gets one, PLACED at a stop and in its arm's state on an arm (R18); with no
record free TABLE_FULL is sent (R21). With a number that record X holds, the present fields are applied by R17's table; at X's own
place that is all; with X EXPECTED at a DOCK stop, X takes the place of an unknown record or a roll with no record in the named
place, at a stop or on an arm, and its handle that of the record in every block: tasks, holds, links, stops, carts, arms, marks
and folder rolls (and in the model's field oldRoll, log 38); else conflict 5, or 4. What a place holds is spelled out: a stop with
a PLACED and an EXPECTED record holds the PLACED one (the model's choice, log 65); a roll with no record is one that the sensor of
a SLOT, PREP, DOCK, IN or OUT stop shows, not that of a SCRAP or PARK stop (DEDUCED, log 20), and not where a loaded cart sets its
roll down or stands in FAULT or MANUAL (the model's choice, log 37). -/
def Obligations.NoticesNameRolls : Prop :=
  ∀ (s : State) (f : Frame) (rest : List Frame), s.Head .rollNotice f rest →
    let pl := f.noticePlace
    let sn := f.noticeSnapshot.ranged
    let conflict (s : State) (why : Nat) : State := (s.event (.rollConflict sn.num pl why)).settle
    let inArm (a : ArmState) : RollState := match a with
      | .run => .run
      | .butt => .butt
      | .ready | .spin => .ready
      | .mounted | .empty => .mounted
    let named (n : Nat) (a : ArmRec) (h : Handle) : List WasteStand :=
      let mine (y : RollRef) : RollRef := if y = .unrecorded then .record h else y
      if a.state = .run ∨ a.state = .butt then
        updateIf (fun w => w.num == n) (fun w => { w with
          folder := mine w.folder, marks := w.marks.map fun m => { m with old := mine m.old } }) s.press.waste.stands
      else s.press.waste.stands
    (∀ y st k, s.plant.stop? y = some st → s.plant.stopKind y = some k →
      let shows : Prop := (k = .slot ∨ k = .prep ∨ k = .dock ∨ k = .inn ∨ k = .out) ∧ s.plant.sensor y = true ∧
        ∀ c ∈ s.plant.traffic.carts, c.pos = some (.stop y) → c.load.isSome = true →
          c.state ≠ .transfer ∧ c.state ≠ .fault ∧ c.state ≠ .manual
      (st.roll = none → st.expected = none → (shows → s.plant.heldAt (.stop y) = .noRecord) ∧
        (¬shows → s.plant.heldAt (.stop y) = .nothing)) ∧
      (∀ h r, st.roll = some h ∨ (st.roll = none ∧ st.expected = some h) → s.plant.roll? h = some r →
        s.plant.heldAt (.stop y) = .record h r)) ∧
    (∀ n m a, s.plant.arm? n m = some a →
      (a.roll = .unrecorded → s.plant.heldAt (.arm n m) = .noRecord) ∧
      (a.roll = .none → s.plant.heldAt (.arm n m) = .nothing) ∧
      (∀ h r, a.roll = .record h → s.plant.roll? h = some r → s.plant.heldAt (.arm n m) = .record h r)) ∧
    ((∀ y, s.plant.stop? y = none → s.plant.heldAt (.stop y) = .noPlace) ∧
      (∀ n m, s.plant.arm? n m = none → s.plant.heldAt (.arm n m) = .noPlace) ∧
      ∀ a b, s.plant.heldAt (.raw a b) = .noPlace) ∧
    (sn.num = 0 ∨ 999999999999 < sn.num → exec .rollNotice s = .next (conflict (s.popped rest) 1)) ∧
    (1 ≤ sn.num → sn.num ≤ 999999999999 → s.plant.holderOf sn.num = none →
      (∀ h r, s.plant.heldAt pl = .record h r → r.unknown = true → r.state ≠ .expected →
        exec .rollNotice s = .next ((s.popped rest).modPlant fun p => p.modRoll h fun r =>
          { r.applyFields sn (p.spinning r) with num := some sn.num, unknown := false }).settle) ∧
      (∀ h r, s.plant.heldAt pl = .record h r → r.unknown = false ∨ r.state = .expected →
        exec .rollNotice s = .next (conflict (s.popped rest) 2)) ∧
      (∀ x h q, s.plant.heldAt pl = .nothing → pl = .stop x →
        s.plant.stopKind x = some .dock ∨ s.plant.stopKind x = some .inn → s.plant.sensor x = false →
        (s.popped rest).plant.createRoll (sn.roll s.plant.core .expected (.stop x) .none false) = some (h, q) →
        exec .rollNotice s = .next ({ s.popped rest with
          plant := q.modStop x fun st => { st with expected := some h } }).settle) ∧
      (s.plant.heldAt pl = .nothing →
        (∀ x, pl = .stop x → (s.plant.stopKind x ≠ some .dock ∧ s.plant.stopKind x ≠ some .inn) ∨
          s.plant.sensor x = true) →
        exec .rollNotice s = .next (conflict (s.popped rest) 3)) ∧
      (s.plant.heldAt pl = .noPlace → exec .rollNotice s = .next (conflict (s.popped rest) 4)) ∧
      (s.plant.heldAt pl = .noRecord → ∀ h q,
        (s.popped rest).plant.createRoll (sn.roll s.plant.core .placed (.stop 0) .none false) = some (h, q) →
        (∀ x, pl = .stop x → ∃ q, exec .rollNotice s = .next ({ s.popped rest with plant := q }).settle ∧
          q.roll? h = some (sn.roll s.plant.core .placed (.stop x) .none false) ∧
          (q.stop? x).map (·.roll) = some (some h)) ∧
        (∀ n m a, pl = .arm n m → s.plant.arm? n m = some a → ∃ t, exec .rollNotice s = .next (State.settle t) ∧
          t.plant.roll? h = some (sn.roll s.plant.core (inArm a.state) (.arm n m) .none false) ∧
          t.plant.arm? n m = some { a with roll := .record h } ∧ t.press.waste.stands = named n a h)) ∧
      ((∀ y ∈ s.plant.rolls, y.roll.isSome = true) →
        s.plant.heldAt pl = .noRecord ∨ (s.plant.heldAt pl = .nothing ∧ ∃ x, pl = .stop x ∧
          (s.plant.stopKind x = some .dock ∨ s.plant.stopKind x = some .inn) ∧ s.plant.sensor x = false) →
        exec .rollNotice s = .next ((s.popped rest).event (.tableFull sn.num pl)).settle)) ∧
    (∀ x r, 1 ≤ sn.num → sn.num ≤ 999999999999 → s.plant.holderOf sn.num = some x → s.plant.roll? x = some r →
      let loose : Prop := (r.state = .expected ∨ r.state = .placed) ∧ r.claim = .none
      let fixed : Prop := r.state = .run ∨ r.state = .butt ∨ r.state = .shipped
      let written : Roll := { r with
        grade := if loose then sn.grade <|> r.grade else r.grade <|> sn.grade
        width := if loose then sn.width <|> r.width else r.width <|> sn.width
        core := if fixed then r.core else sn.core.getD r.core
        diam := if s.plant.spinning r = true then r.diam else if fixed then r.diam <|> sn.diam else sn.diam <|> r.diam
        dock := if fixed then r.dock <|> sn.dock else sn.dock <|> r.dock }
      let applied : State := (s.popped rest).modPlant fun p => p.modRoll x fun _ => written
      let own : Prop := (∃ y, pl = .stop y ∧ r.loc = .stop y) ∨ ∃ n m, pl = .arm n m ∧ r.loc = .arm n m
      let atDock : Prop := r.state = .expected ∧ ∃ y, r.loc = .stop y ∧ s.plant.stopKind y = some .dock
      (own → exec .rollNotice s = .next applied.settle) ∧
      (¬own → s.plant.heldAt pl = .noPlace → exec .rollNotice s = .next (conflict applied 4)) ∧
      (¬own → s.plant.heldAt pl = .nothing ∨ (s.plant.heldAt pl = .noRecord ∧ ¬atDock) ∨
          (∃ u ru, s.plant.heldAt pl = .record u ru ∧ ¬(ru.unknown = true ∧ ru.state ≠ .expected ∧ atDock)) →
        exec .rollNotice s = .next (conflict applied 5)) ∧
      (∀ z, ¬own → s.plant.heldAt pl = .noRecord → atDock → pl = .stop z →
        ∃ q, exec .rollNotice s = .next ({ s.popped rest with plant := q }).settle ∧
          q.roll? x = some { written with state := .placed, loc := .stop z } ∧
          (q.stop? z).map (·.roll) = some (some x) ∧ ∀ y k, q.stop? y = some k → k.expected ≠ some x) ∧
      (∀ n m a, ¬own → s.plant.heldAt pl = .noRecord → atDock → pl = .arm n m → s.plant.arm? n m = some a →
        ∃ t, exec .rollNotice s = .next (State.settle t) ∧
          t.plant.roll? x = some { written with state := inArm a.state, loc := .arm n m } ∧
          t.plant.arm? n m = some { a with roll := .record x } ∧ t.press.waste.stands = named n a x ∧
          ∀ y k, t.plant.stop? y = some k → k.expected ≠ some x) ∧
      (∀ u ru, ¬own → s.plant.heldAt pl = .record u ru → ru.unknown = true → ru.state ≠ .expected → atDock →
        let heir (h : Handle) : Handle := if h = u then x else h
        let ref (y : RollRef) : RollRef := match y with
          | .record h => .record (heir h)
          | .unrecorded => .unrecorded
          | .none => .none
        let waste : WasteUnit := { s.press.waste with stands := s.press.waste.stands.map fun w => { w with
          folder := ref w.folder, marks := w.marks.map fun m => { m with old := ref m.old, new := ref m.new } } }
        ∃ q, exec .rollNotice s = .next ({ s.popped rest with
            plant := q, press := { s.press with waste := waste } }).settle ∧ q.roll? u = none ∧
          q.roll? x = some { written with
            state := ru.state, loc := ru.loc, prepared := r.prepared || ru.prepared, part := r.part || ru.part
            runMetres := min 4294967295 (r.runMetres + ru.runMetres + (r.runResidue + ru.runResidue) / 1000000)
            runResidue := (r.runResidue + ru.runResidue) % 1000000
            copies := min 4294967295 (r.copies + ru.copies), waste := min 4294967295 (r.waste + ru.waste) } ∧
          q.bus = (s.popped rest).plant.bus ∧
          q.sched.queue = s.plant.sched.queue.map (fun t => { t with roll := heir t.roll }) ∧
          q.supply.holds = s.plant.supply.holds.map (fun k => { k with roll := heir k.roll }) ∧
          q.supply.links = s.plant.supply.links.map (fun l => { l with
            out := { l.out with roll := l.out.roll.map heir }, inb := { l.inb with roll := l.inb.roll.map heir } }) ∧
          q.splice.stands = s.plant.splice.stands.map (fun st => { st with
            armA := { st.armA with roll := ref st.armA.roll }, armB := { st.armB with roll := ref st.armB.roll }
            oldRoll := ref st.oldRoll }) ∧
          q.traffic.carts = s.plant.traffic.carts.map (fun c => { c with load := c.load.map heir }) ∧
          q.traffic.stops = s.plant.traffic.stops.map fun y => { y with
            roll := y.roll.map heir, expected := if y.expected = some x then none else y.expected.map heir }))

/-- An identified record keeps its handle, state, location, reservation, run length and counts; it takes the number, it is
unknown no longer, and with no reservation while EXPECTED or PLACED the notice's present fields are written over its own. -/
def Obligations.IdentifiedRollsKeepTheirHistory : Prop :=
  ∀ (p : Plant) (h : Handle) (r : Roll) (sn : Snapshot), p.roll? h = some r →
    ∃ t, (p.identify h sn).roll? h = some t ∧ t.num = some sn.num ∧ t.unknown = false ∧ t.state = r.state ∧
      t.loc = r.loc ∧ t.claim = r.claim ∧ t.runMetres = r.runMetres ∧ t.runResidue = r.runResidue ∧
      t.copies = r.copies ∧ t.waste = r.waste ∧ t.prepared = r.prepared ∧ t.part = r.part ∧ t.rejected = r.rejected ∧
      (r.claim = .none → r.state = .expected ∨ r.state = .placed → p.spinning r = false →
        t.grade = (sn.grade <|> r.grade) ∧ t.width = (sn.width <|> r.width) ∧ t.core = sn.core.getD r.core ∧
        t.diam = (sn.diam <|> r.diam) ∧ t.dock = (sn.dock <|> r.dock)) ∧
      ∀ k, k ≠ h → (p.identify h sn).roll? k = p.roll? k

/-- The remaining length of a stored roll: 0 without a grade, a diameter, or a diameter above the grade's splice diameter;
otherwise 314,159 (D^2 - Ds^2) / (40,000,000 t), rounded down, with Ds and t from the table entry of its grade. -/
def Obligations.StoredRollsOfferTheirRemainingLength : Prop :=
  ∀ (p : Plant) (r : Roll),
    (r.grade = none ∨ r.diam = none → p.storedRemaining r = 0) ∧
    (∀ g d c, r.grade = some g → r.diam = some d → p.gradeCfg g = some c →
      (d ≤ c.ds → p.storedRemaining r = 0) ∧
      (∀ x, d = c.ds + x → 0 < c.caliper →
        p.storedRemaining r * (40000000 * c.caliper) ≤ 314159 * (x * (2 * c.ds + x)) ∧
        314159 * (x * (2 * c.ds + x)) < (p.storedRemaining r + 1) * (40000000 * c.caliper)))

/-- The slot of a STOW: the lowest-numbered empty, available slot (one that shows a carted roll is not empty: the model's choice,
log 56) in the lane of the roll's grade; when that lane has none, or the roll has no grade, the lowest-numbered of all; none
exactly when none is open. An UNLOAD goes to the lowest SCRAP stop with no grade, below the minimum return length or without a slot
(R27). A STOW whose slot has become unusable takes another, or waits with its no slot flag, loaded or not; STORAGE_FULL is sent if
no other STOW has the flag; loaded STOWs that wait choose before it (R28, R29); one in LOADING counts as loaded (DEDUCED, log 29).
Queue order is class, urgency, age (R91). The first ready task takes the free cart at its from stop, or the nearest on the ring, by
the sections it would pass, then the lowest-numbered (R93; one with no position last: the model's choice, log 7): ASSIGNED with its
to stop chosen, or WAITING again where the leg is refused (R94). With no free cart, a ready class 0 task takes the nearest cart
ASSIGNED to a STOW or REJECT suspended fewer than three times (R98). Readiness is R92's. A cart arrived with its task has its
transfer asked for (also where its leg was refused: the model's choice, log 76): accepted, the task is LOADING with its carry leg
queued (unless refused) or UNLOADING; refused, it fails NOT_READY (R94, R96). A WAITING mount's target is the arm not in RUN, else
A unless only A holds a roll (R97). Settling (the model's order, log 7) is at most 32 rounds, each the first there is of: the first
arrived cart's transfer, none asked twice once refused; a slot open with a flag set: the flags cleared, the loaded STOWs choosing
in queue order; an assignment; the oldest task's carry leg that R74 would now accept (R95; the model's choices, logs 61 and 71);
then free carts get their park legs (R73), the arbiter grants and the levels are set. -/
def Obligations.SlotsAreChosenByLaneThenNumber : Prop :=
  let openSlot (p : Plant) (x : Nat) (c : StopCfg) : Prop := p.stopCfg x = some c ∧ 1 ≤ x ∧ x ≤ 40 ∧ c.kind = .slot ∧
    p.slotHolding x = false ∧ p.slotBound x = false ∧ p.stopLost x = false
  (∀ (p : Plant) (h : Handle),
    let isOpen (x : Nat) (c : StopCfg) : Prop := openSlot p x c
    let lane : Option Nat := (((p.roll? h).bind (·.grade)).bind p.gradeCfg).map (·.lane)
    (p.chooseSlot h = none ↔ ∀ x c, ¬isOpen x c) ∧
    (∀ x, p.chooseSlot h = some x → ∃ c, isOpen x c ∧
      ((lane = some c.extra ∧ ∀ y d, isOpen y d → lane = some d.extra → x ≤ y) ∨
       ((∀ y d, isOpen y d → lane ≠ some d.extra) ∧ ∀ y d, isOpen y d → x ≤ y))) ∧
    (∀ r, p.roll? h = some r →
      (r.grade = none ∨ p.chooseSlot h = none ∨
          (∃ g c, r.grade = some g ∧ p.gradeCfg g = some c ∧ p.storedRemaining r < c.minReturn) →
        p.unloadChoice h = p.scrapStop) ∧
      (∀ g c x, r.grade = some g → p.gradeCfg g = some c → c.minReturn ≤ p.storedRemaining r →
        p.chooseSlot h = some x → p.unloadChoice h = some x)) ∧
    (∀ x, p.scrapStop = some x → ∃ c, p.stopCfg x = some c ∧ c.kind = .scrap ∧
      ∀ y d, 1 ≤ y → y ≤ 40 → p.stopCfg y = some d → d.kind = .scrap → x ≤ y)) ∧
  (∀ (p : Plant) (t : Task), p.task? t.num = some t → t.kind = .stow → (∀ o ∈ p.sched.queue, o.noSlot = false) →
    let slot : Option Nat := (p.modTask t.num fun o => { o with dest := none }).chooseSlot t.roll
    let again := p.rechoose t.num
    (∀ x, slot = some x → t.state = .assigned ∨ t.state = .loading ∨ t.state = .carrying →
      again.task? t.num = some { t with dest := some x } ∧ again.bus = p.bus) ∧
    (slot = none → again.bus = p.bus.sendEvent .storageFull ∧
      (t.state = .assigned →
        again.task? t.num = some { t with dest := none, noSlot := true, state := .waiting, cart := none }) ∧
      (t.state = .loading ∨ t.state = .carrying →
        again.task? t.num = some { t with dest := none, noSlot := true }))) ∧
  (∀ (p : Plant) (t : Task), p.task? t.num = some t → t.kind = .stow → t.noSlot = false →
    t.state = .assigned ∨ t.state = .loading ∨ t.state = .carrying →
    let waits (o : Task) : Prop := o ∈ p.sched.queue ∧ o.num ≠ t.num ∧ o.kind = .stow ∧ o.noSlot = true
    let released : Plant := p.modTask t.num fun o => { o with dest := none }
    let again := p.rechoose t.num
    (released.chooseSlot t.roll = none → (∃ o, waits o) → again.bus = p.bus ∧
      again.task? t.num = some { t with
        dest := none, noSlot := true
        state := if t.state = .assigned then .waiting else t.state
        cart := if t.state = .assigned then none else t.cart } ∧
      ∀ n, n ≠ t.num → again.task? n = p.task? n) ∧
    (∀ x, released.chooseSlot t.roll = some x → (∃ o, waits o) →
      (∀ o ∈ p.sched.queue, o.noSlot = true → o.kind = .stow ∧ o.state = .waiting) →
      again.bus = p.bus ∧ again.task? t.num = some { t with dest := some x } ∧
      ∀ n, n ≠ t.num → again.task? n = (p.task? n).map fun o => { o with noSlot := false }) ∧
    (∀ o x, p.sched.queue.filter (·.noSlot) = [o] → waits o → o.state = .loading ∨ o.state = .carrying →
      p.task? o.num = some o → released.chooseSlot o.roll = some x →
      again.task? o.num = some { o with dest := some x, noSlot := false } ∧
      (again.task? t.num).map (·.dest) ≠ some (some x))) ∧
  (∀ (p : Plant) (x : Nat) (c : Cart),
    let at? : Option Nat := match c.pos with
      | some (.sec n) => some n
      | some (.stop y) => (p.stopCfg y).map (·.sec)
      | none => none
    let N := p.image.sections.length
    (∀ a k, at? = some a → p.stopCfg x = some k → 1 ≤ a → a ≤ N → 1 ≤ k.sec → k.sec ≤ N →
      p.distanceKey x c = [0, if a ≤ k.sec then k.sec - a else k.sec + N - a, c.num]) ∧
    (at? = none ∨ p.stopCfg x = none → p.distanceKey x c = [1, 0, c.num])) ∧
  (∀ p : Plant, p.queueOrder.Perm p.sched.queue ∧
    p.queueOrder.Pairwise (fun a b => a.cls < b.cls ∨ (a.cls = b.cls ∧ a.urgency ≤ b.urgency)) ∧
    ∀ c u, p.queueOrder.filter (fun t => t.cls == c && t.urgency == u) =
      p.sched.queue.filter (fun t => t.cls == c && t.urgency == u)) ∧
  (∀ (p : Plant) (t : Task) (ts : List Task) (x : Nat), p.freeCarts ≠ [] → p.queueOrder.filter p.isReady = t :: ts →
    p.fromStop t = some x →
    ∃ c ∈ p.freeCarts, p.assignRound = some (p.assign t c x) ∧
      (c.atStop = some x ∨ ∀ d ∈ p.freeCarts, d.atStop ≠ some x ∧ p.distanceKey x c ≤ p.distanceKey x d)) ∧
  (∀ (p : Plant) (t : Task) (c : Cart) (x : Nat), p.task? t.num = some t → p.cart? c.num = some c → t.state = .waiting →
    let dest : Option Nat := match t.kind with
      | .stow => p.chooseSlot t.roll
      | .unload => p.unloadChoice t.roll
      | .feedPrep | .feedMount | .ship | .reject => t.dest
    let q := p.assign t c x
    (t.kind = .stow → p.chooseSlot t.roll = none → q.task? t.num = some { t with dest := none, noSlot := true } ∧
      q.traffic = p.traffic) ∧
    (t.kind ≠ .stow ∨ p.chooseSlot t.roll ≠ none →
      (p.legRefusal c x = none → q.task? t.num = some { t with state := .assigned, cart := some c.num, dest := dest } ∧
        (q.cart? c.num).map (·.task) = some (some t.num)) ∧
      (p.legRefusal c x ≠ none → q.task? t.num = some { t with
          cart := none, dest := if t.kind = .stow ∨ t.kind = .unload then none else t.dest
          waitsFor := some (p.sourceCondition t) } ∧
        (q.cart? c.num).map (·.task) = some none))) ∧
  (∀ p : Plant, p.freeCarts = [] →
    (∀ c o, (c, o) ∈ p.takeable ↔ c ∈ p.traffic.carts ∧ (∃ n, c.task = some n ∧ p.task? n = some o) ∧
      (o.kind = .stow ∨ o.kind = .reject) ∧ o.state = .assigned ∧ o.suspensions < 3) ∧
    ((p.queueOrder.filter p.isReady).find? (·.cls == 0) = none ∨ p.takeable = [] → p.assignRound = none) ∧
    (∀ t x, (p.queueOrder.filter p.isReady).find? (·.cls == 0) = some t → p.fromStop t = some x → p.takeable ≠ [] →
      (∀ o ∈ p.sched.queue, o.noSlot = false) →
      ∃ (c : Cart) (o : Task) (q : Plant), (c, o) ∈ p.takeable ∧ (∀ d ∈ p.takeable, p.distanceKey x c ≤ p.distanceKey x d.1) ∧
        p.assignRound = some (q.assign t c x) ∧ q.task? o.num = some { o with
          state := .waiting, cart := none, suspensions := o.suspensions + 1
          dest := if o.kind = .stow then none else o.dest })) ∧
  (∀ (p : Plant) (t : Task) (x : Nat) (y : Stop), t.src = .stop x → p.stop? x = some y →
    (p.isReady t = true ↔ t.state = .waiting ∧ t.noSlot = false ∧ t.waitsFor = none ∧ p.stopLost x = false ∧
      y.roll = some t.roll ∧ (∃ r, p.roll? t.roll = some r ∧ r.state = .placed) ∧
      (y.claim = none ∨ ∃ c k, y.claim = some c ∧ p.cart? c = some k ∧ p.isFree k = true ∧ k.pos = some (.stop x)) ∧
      p.destReady t = true)) ∧
  (∀ (p : Plant) (t : Task) (n : Nat) (m : Arm) (c : StandCfg) (y : Stop), t.src = .arm n m → p.standCfg n = some c →
    p.stop? c.standStop = some y →
    (p.isReady t = true ↔ t.state = .waiting ∧ t.noSlot = false ∧ t.waitsFor = none ∧ p.stopLost c.standStop = false ∧
      (∃ a r, p.arm? n m = some a ∧ a.state = .butt ∧ a.roll = .record t.roll ∧ p.roll? t.roll = some r ∧ r.state = .butt) ∧
      (y.claim = none ∨
        ∃ i k, y.claim = some i ∧ p.cart? i = some k ∧ p.isFree k = true ∧ k.pos = some (.stop c.standStop)) ∧
      p.destReady t = true)) ∧
  (∀ (p : Plant) (t : Task),
    (t.kind = .feedPrep → (p.destReady t = true ↔ ∃ x y, t.dest = some x ∧ p.stop? x = some y ∧ y.roll = none ∧
      y.expected = none ∧ p.sensor x = false ∧ p.stopLost x = false ∧
      ∀ o ∈ p.sched.queue, o.num ≠ t.num → o.kind = .feedPrep → o.dest = some x → o.state = .waiting)) ∧
    (t.kind = .feedMount → (p.destReady t = true ↔ ∃ n m x a, t.stand = some n ∧ t.arm = some m ∧ t.dest = some x ∧
      p.arm? n m = some a ∧ a.state = .empty ∧ p.stopLost x = false)) ∧
    (t.kind = .ship ∨ t.kind = .reject → (p.destReady t = true ↔ ∃ x, t.dest = some x ∧ p.stopLost x = false)) ∧
    (t.kind = .unload ∨ t.kind = .stow → p.destReady t = true)) ∧
  (∀ (p : Plant) (t : Task) (c x : Nat) (k : Cart) (y : Stop), p.task? t.num = some t → t.cart = some c →
    p.cart? c = some k → k.pos = some (.stop x) → p.stop? x = some y → p.standOfStop x = none →
    let ready : Prop := k.state = .idle ∧ p.stopLost x = false
    (ready → p.sensor x = true → k.loadFlag = false → ∃ q, p.askTransfer k t .toCart = (q, true) ∧
      (q.task? t.num).map (·.state) = some .loading ∧ (q.stop? x).map (·.transfer) = some (some .toCart) ∧
      (q.cart? c).map (fun k => (k.state, k.transfer)) = some (.transfer, some (p.clock.ms + 30000#32)) ∧ q.bus = p.bus ∧
      ∀ d, t.dest = some d → (q.cart? c).map (·.queued) = some (if p.legRefusal k d = none
        then some { stop := d, task := some t.num } else k.queued)) ∧
    (ready → p.sensor x = false → k.loadFlag = true → ∃ q, p.askTransfer k t .toStop = (q, true) ∧
      q.task? t.num = some { t with state := .unloading } ∧ (q.stop? x).map (·.transfer) = some (some .toStop) ∧
      (q.cart? c).map (fun k => (k.state, k.transfer)) = some (.transfer, some (p.clock.ms + 30000#32)) ∧ q.bus = p.bus) ∧
    (¬ready ∨ p.sensor x = false ∨ k.loadFlag = true →
      p.askTransfer k t .toCart = (p.failTask t.num .notReady (p.rollNo t.roll), false)) ∧
    (¬ready ∨ p.sensor x = true ∨ k.loadFlag = false →
      p.askTransfer k t .toStop = (p.failTask t.num .notReady (p.rollNo t.roll), false))) ∧
  (∀ (p : Plant) (t : Task) (n : Nat) (st : Stand), t.kind = .feedMount → t.stand = some n → p.stand? n = some st →
    (t.state = .waiting → (p.retarget t).arm = some (match st.runArm with
      | some m => m.other
      | none => if st.armA.state ≠ .empty ∧ st.armB.state = .empty then .b else .a)) ∧
    (t.state ≠ .waiting → (p.retarget t).arm = t.arm)) ∧
  (∀ p : Plant,
    p.settle = ((rounds Settling.round 32 { plant := p, refused := [] }).plant.refreshTasks.parkFreeCarts.arbitrate).settleLevels ∧
    p.refreshTasks = { p with sched := { p.sched with queue := p.sched.queue.map p.retarget } } ∧
    (∀ t, ∃ arm, p.retarget t = { t with
      arm := arm
      waitsFor := if t.waitsFor = some ((p.fromStop t).bind fun x => (p.stop? x).bind (·.claim), (p.fromStop t).any p.stopLost)
        then t.waitsFor else none }) ∧
    (∀ t, t.kind ≠ .feedMount → (p.retarget t).arm = t.arm) ∧
    p.parkFreeCarts = p.traffic.carts.foldl (fun q c =>
      if q.isFree c = true ∧ c.state = .idle ∧ c.leg = none then
        if c.atStop = q.parkStop c.num then q.modCart c.num fun k => { k with state := .parked } else q.giveParkLeg c.num
      else if c.state = .held ∧ c.leg = none ∧ c.task = none then q.giveParkLeg c.num
      else q) p) ∧
  (∀ (u v : Settling) (k : Nat),
    rounds Settling.round 0 u = u ∧ (Settling.round u = none → rounds Settling.round k u = u) ∧
    (Settling.round u = some v → rounds Settling.round (k + 1) u = rounds Settling.round k v) ∧
    let p := u.plant.refreshTasks
    (∀ c t dir q, p.arrivedWithTask u.refused = some (c, t, dir) →
      (p.askTransfer c t dir = (q, true) → Settling.round u = some { u with plant := q }) ∧
      (p.askTransfer c t dir = (q, false) → Settling.round u = some { plant := q, refused := c.num :: u.refused })) ∧
    (p.arrivedWithTask u.refused = none →
      (∀ q, p.slotRound = some q → Settling.round u = some { u with plant := q }) ∧
      (∀ q, p.slotRound = none → p.assignRound = some q → Settling.round u = some { u with plant := q }) ∧
      (p.slotRound = none → p.assignRound = none →
        Settling.round u = p.carryRound.map fun q => { u with plant := q }))) ∧
  (∀ (p : Plant) (refused : List Nat),
    let due (c : Cart) (t : Task) (dir : TransferDir) : Prop := c.state = .idle ∧ c.num ∉ refused ∧
      (∃ n, c.task = some n ∧ p.task? n = some t) ∧ ∃ x, c.pos = some (.stop x) ∧
        ((dir = .toCart ∧ t.state = .assigned ∧ p.fromStop t = some x) ∨
          (dir = .toStop ∧ t.state = .carrying ∧ t.dest = some x))
    (∀ before c after t dir, p.traffic.carts = before ++ c :: after → (∀ d ∈ before, ∀ o e, ¬due d o e) → due c t dir →
      p.arrivedWithTask refused = some (c, t, dir)) ∧
    ((∀ c ∈ p.traffic.carts, ∀ t dir, ¬due c t dir) → p.arrivedWithTask refused = none)) ∧
  (∀ p : Plant,
    let cleared : Plant :=
      { p with sched := { p.sched with queue := p.sched.queue.map fun t => { t with noSlot := false } } }
    let serve (q : Plant) (t : Task) : Plant := match q.chooseSlot t.roll with
      | some x => (q.modTask t.num fun o => { o with dest := some x }).giveCarryLeg t.num
      | none => q.setNoSlot t.num
    ((∀ x c, ¬openSlot p x c) ∨ (∀ t ∈ p.sched.queue, t.noSlot = false) → p.slotRound = none) ∧
    ((∃ x c, openSlot p x c) → (∃ t ∈ p.sched.queue, t.noSlot = true) → p.slotRound = some
      ((p.queueOrder.filter fun t => t.kind = .stow ∧ t.noSlot = true ∧ t.state ≠ .waiting).foldl serve cleared)) ∧
    (∀ t, p.task? t.num = some t →
      let others : Prop := ∃ o ∈ p.sched.queue, o.num ≠ t.num ∧ o.kind = .stow ∧ o.noSlot = true
      (p.setNoSlot t.num).task? t.num = some { t with noSlot := true, dest := none } ∧
      (others → (p.setNoSlot t.num).bus = p.bus) ∧ (¬others → (p.setNoSlot t.num).bus = p.bus.sendEvent .storageFull) ∧
      (∀ c y, t.cart = some c → t.dest = some y → p.giveCarryLeg t.num = (p.giveLeg c { stop := y, task := some t.num }).1))) ∧
  (∀ p : Plant,
    let due (t : Task) : Prop := (t.state = .loading ∨ t.state = .carrying) ∧
      ∃ c k y, t.cart = some c ∧ p.cart? c = some k ∧ t.dest = some y ∧ p.legRefusal k y = none ∧
        (∀ l, k.leg = some l ∨ k.queued = some l → l.stop ≠ y) ∧
        ((k.state = .idle ∧ k.pos ≠ some (.stop y)) ∨ k.state = .starting ∨ k.state = .running ∨ k.state = .held ∨
          k.state = .transfer)
    (∀ before t after, p.sched.queue = before ++ t :: after → (∀ o ∈ before, ¬due o) → due t →
      p.carryRound = some (p.giveCarryLeg t.num)) ∧
    ((∀ t ∈ p.sched.queue, ¬due t) → p.carryRound = none))

/-- Every step keeps the roll table in order: 64 indexes, generations 0 to 255, no roll number in two records. And, each on its
own premise, every step keeps the agreement of the records with the stops, carts and arms that name them (R3): so no record is
at two places; and that of the sections with the carts' held lists (R66, R68): every section of a cart's held list names that cart
as its holder, so no two carts hold one section. -/
def Obligations.StepsKeepRollsInOrder : Prop :=
  ∀ s t : State, step s = .next t →
    (RollsInOrder s.plant.rolls → RollsInOrder t.plant.rolls) ∧ (s.plant.PlacesAgree → t.plant.PlacesAgree) ∧
    (s.plant.HoldsAgree → t.plant.HoldsAgree)

/-- Every step keeps the task queue in order: at most 16 tasks, numbers 1 to 255, none twice. And, on its own premise, every
step keeps the supply unit in order: one call record a stand, at most 8 holds, one a caller and call number, one TAKEN a link. -/
def Obligations.StepsKeepTheTaskQueueInOrder : Prop :=
  ∀ s t : State, step s = .next t →
    (s.plant.sched.InOrder → t.plant.sched.InOrder) ∧ (s.plant.supply.InOrder → t.plant.supply.InOrder)

/-! ### Editions, copies and waste (08, 09) -/

/-- EDITION: refused ACTIVE while one is LOADED or RUNNING; otherwise the checks in the order of R150's table, each with its
reason, and the load: LOADED, the plan, no current version, counters 0, both remainders 0, trim windows discarded. -/
def Obligations.PlansAreLoadedOrRefused : Prop :=
  ∀ (s : State) (f : Frame) (rest : List Frame), s.Head .edition f rest →
    let pl := f.plan
    let e := s.press.edition
    let refused (why : Nat) : State := (s.popped rest).event (.editionRefused 32 pl.id why)
    (e.state = .loaded ∨ e.state = .running → exec .edition s = .next (refused 1)) ∧
    (e.state = .none ∨ e.state = .complete → exec .edition s = .next (
      if pl.cutOff < 400 ∨ 700 < pl.cutOff ∨ 2000 < pl.startWaste then refused 2
      else if pl.standsByte = 0 ∨ 15 < pl.standsByte ∨ (∃ n ∈ standsOfByte pl.standsByte, s.plant.standCfg n = none) then
        refused 3
      else if pl.count = 0 then refused 2
      else if 6 < pl.count then refused 4
      else if ¬(pl.versions.map (·.id)).Nodup then refused 5
      else if ∃ v ∈ pl.versions, v.ordered = 0 ∨ 2000000 < v.ordered then refused 2
      else { s.popped rest with press := (
        { edition := { state := .loaded, id := some pl.id, cutOff := pl.cutOff, startWaste := pl.startWaste,
                       stands := standsOfByte pl.standsByte, versions := pl.versions, cur := none,
                       counts := Counters.zero, finalSent := false, unplanned := e.unplanned, tallyNo := e.tallyNo }
          waste := { s.press.waste with start := 0, manual := 0 }
          web := { s.press.web with stands := s.press.web.stands.map fun w =>
            { w with trimStart := none, trimCount := 0 } } } : Press) }))

/-- AMEND: refused without that edition, without that version, for a count outside 1 to 2,000,000, or for a version before
the current one; otherwise the version's ordered count is the new one but not below its good count. A COMPLETE version
above its good count runs again, and so does its COMPLETE edition; a current version brought down to its good count
completes. -/
def Obligations.AmendmentsChangeOneVersion : Prop :=
  ∀ (s : State) (f : Frame) (rest : List Frame), s.Head .amend f rest →
    let id := f.num 0 2
    let vid := f.num 2 1
    let n := f.num 3 4
    let e := s.press.edition
    let refused (why : Nat) : State := (s.popped rest).event (.amendRefused id vid why)
    (e.state = .none ∨ e.id ≠ some id → exec .amend s = .next (refused 1)) ∧
    (e.state ≠ .none → e.id = some id →
      ((∀ v ∈ e.versions, v.id ≠ vid) → exec .amend s = .next (refused 2)) ∧
      (∀ before v after, e.versions = before ++ v :: after → v.id = vid → (∀ b ∈ before, b.id ≠ vid) →
        (n = 0 ∨ 2000000 < n → exec .amend s = .next (refused 3)) ∧
        (1 ≤ n → n ≤ 2000000 → before.length + 1 < e.cur.getD 0 → exec .amend s = .next (refused 4)) ∧
        (1 ≤ n → n ≤ 2000000 → e.cur.getD 0 ≤ before.length + 1 →
          let changed : Version :=
            { v with ordered := max n v.good
                     state := if v.state = .complete ∧ v.good < n then .running else v.state }
          let versions := before ++ changed :: after
          let again : Bool := e.state == .complete && versions.any fun x => x.state == .running
          let amended : State := { s.popped rest with press := { s.press with edition :=
            { e with versions := versions
                     state := if again then .running else e.state
                     finalSent := if again then false else e.finalSent } } }
          exec .amend s = .next (
            if e.cur = some (before.length + 1) ∧ changed.state = .running ∧ changed.good = changed.ordered then
              amended.completeVersion (before.length + 1)
            else amended))))

/-- END: with the loaded edition's ID, a TALLY of cause END unless the final tally mark is set, then the record returns to
NONE with nothing in it (every configured stand is in use again; what cut-off and start waste hold then is the model's choice, log 74)
and the unplanned counter as it was; otherwise EDITION_REFUSED with frame kind END, the ID and NOT_LOADED. -/
def Obligations.EndsClearTheEdition : Prop :=
  ∀ (s : State) (f : Frame) (rest : List Frame), s.Head .editionEnd f rest →
    let e := s.press.edition
    let cleared (t : State) : State := { t with press := (
      { edition := { state := .none, id := none, cutOff := 0, startWaste := 0, stands := [], versions := [], cur := none,
                     counts := { gross := 0, good := 0, start := 0, splice := 0, brk := 0, manual := 0, overrun := 0 },
                     finalSent := false, unplanned := e.unplanned, tallyNo := t.press.edition.tallyNo }
        waste := { s.press.waste with start := 0, manual := 0 }
        web := { s.press.web with stands := s.press.web.stands.map fun w =>
          { w with trimStart := none, trimCount := 0 } } } : Press) }
    (e.state = .none ∨ e.id ≠ some (f.num 0 2) →
      exec .editionEnd s = .next ((s.popped rest).event (.editionRefused 34 (f.num 0 2) 6))) ∧
    (e.state ≠ .none → e.id = some (f.num 0 2) → ∃ t, exec .editionEnd s = .next t ∧
      t = cleared (if e.finalSent then s.popped rest else (s.popped rest).tally .ended 0) ∧
      (∀ n, t.inUse n = (t.plant.standCfg n).isSome))

/-- DIVERT adds 1 to 1,000 copies to the MANUAL remainder, at most 65,535, and refuses other counts. A REQUEST for TALLY is
answered to its source: HEAD, the counters, each version and the NODE part under one tally number, in NONE the NODE part
alone, which has no cause field (the layout's: log 49); the number then goes up by one, 255 followed by 0. -/
def Obligations.DivertsAndTallyRequestsAreTaken : Prop :=
  ∀ (s : State) (f : Frame) (rest : List Frame),
    (s.Head .divert f rest → exec .divert s = .next (
      if f.num 0 2 = 0 ∨ 1000 < f.num 0 2 then (s.popped rest).event (.divertRefused (f.num 0 2))
      else { s.popped rest with press := { s.press with waste :=
        { s.press.waste with manual := min 65535 (s.press.waste.manual + f.num 0 2) } } })) ∧
    (s.Head .requestTally f rest →
      let e := s.press.edition
      let w := s.press.waste
      let node : TallyPart := .node e.unplanned w.unattributed w.start w.manual
      let parts : List TallyPart :=
        if e.state = .none then [node]
        else [.head .request (e.id.getD 0) e.state (e.cur.getD 0) e.cutOff e.startWaste (standsByte e.stands),
            .counts e.counts] ++ (e.versions.zipIdx.map fun v => .version (v.2 + 1) v.1) ++ [node]
      exec .requestTally s = .next { s.popped rest with
        plant := (parts.zipIdx.foldl (fun p (x : TallyPart × Nat) =>
          p.send f.src (.tally e.tallyNo (x.2 + 1) parts.length x.1)) (s.popped rest).plant)
        press := { s.press with edition := { e with tallyNo := if 255 ≤ e.tallyNo then 0 else e.tallyNo + 1 } } })

/-- COPY_PULSE with no edition LOADED or RUNNING: unplanned, gated, attributed as waste. With one: the mark queues are
brought up to date, the class is the first step of R168 that holds, it reduces its remainder, sets the gate, is attributed
and counted; a GOOD copy is counted in the current version and the trim windows of the stands in use: a CLOSED one opens, one that
has its count ends (as TRIM_WINDOW_END says); any other copy discards them. A version at its ordered count completes: VERSION_DONE and
its TALLY, or for the last one EDITION_DONE and the final TALLY (R157). A queue is brought up to date from its head: the folder roll
moves at the folder point, a mark goes at its close point; a window is open from open to close point (R163). A copy is counted on the
folder roll's record, or as unattributed, for each stand in use (R170). The stands are taken in increasing number (the model's choice,
log 26), and trim windows end before a version's completion is looked at (the model's choice, log 30). -/
def Obligations.CopiesAreClassedAndCounted : Prop :=
  (∀ s : State, s.plant.lineRun = true →
    let e := s.press.edition
    let b := s.bringAll
    let discarded : WebUnit := { s.press.web with stands := s.press.web.stands.map fun w =>
      { w with trimStart := none, trimCount := 0 } }
    (e.state = .none ∨ e.state = .complete → exec .copyPulse s = .next { s with
      plant := (b.attribute true).plant
      press := {
        edition := { e with unplanned := min 4294967295 (e.unplanned + 1) }
        waste := { (b.attribute true).press.waste with gate := true }
        web := discarded } }) ∧
    (e.state = .loaded ∨ e.state = .running →
      let k : CopyClass :=
        if s.press.waste.latch then .brk
        else if 0 < s.press.waste.start then .start
        else if [1, 2, 3, 4].any fun n => s.inUse n && b.windowOpen n then .splice
        else if 0 < s.press.waste.manual then .manual
        else if e.current.all fun v => v.state == .complete then .overrun
        else .good
      let a := b.attribute (k != .good)
      let e' : EditionCounter :=
        if e.counts.gross < 4294967295 then { e with
          counts := e.counts.add k
          versions := match k, e.cur with
            | .good, some i => e.versions.modify (i - 1) fun v => { v with good := v.good + 1 }
            | _, _ => e.versions }
        else e
      let counted : State := { s with
        plant := a.plant
        press := {
          edition := e'
          waste := { a.press.waste with
            gate := k != .good
            start := if k = .start then s.press.waste.start - 1 else s.press.waste.start
            manual := if k = .manual then s.press.waste.manual - 1 else s.press.waste.manual }
          web := if k = .good then s.press.web else discarded } }
      let trim (u : State) (n : Nat) : State :=
        let opened : State := { u with press := { u.press with web := { u.press.web with
          stands := updateIf (fun w => w.num == n) (fun w => match w.trimStart with
            | none => { w with trimStart := some (WebAcc.whole w.w), trimCount := 0 }
            | some _ => { w with trimCount := w.trimCount + 1 }) u.press.web.stands } } }
        match exec (.trimWindowEnd n) opened with
        | .next v => v
        | .fault _ => u
        | .refused _ => u
      let trimmed : State := if k = .good then ([1, 2, 3, 4].filter s.inUse).foldl trim counted else counted
      let tally (cause : TallyCause) (u : State) : State :=
        let x := u.press.edition
        let w := u.press.waste
        let parts : List TallyPart :=
          [.head cause (x.id.getD 0) x.state (x.cur.getD 0) x.cutOff x.startWaste (standsByte x.stands), .counts x.counts] ++
            (x.versions.zipIdx.map fun v => .version (v.2 + 1) v.1) ++ [.node x.unplanned w.unattributed w.start w.manual]
        { u with
          plant := (parts.zipIdx.foldl (fun p (y : TallyPart × Nat) =>
            p.send 0 (.tally x.tallyNo (y.2 + 1) parts.length y.1)) u.plant)
          press := { u.press with edition := { x with tallyNo := if 255 ≤ x.tallyNo then 0 else x.tallyNo + 1 } } }
      let edit (f : EditionCounter → EditionCounter) (u : State) : State :=
        { u with press := { u.press with edition := f u.press.edition } }
      let done (i : Nat) (v : Version) : State :=
        let x := (edit (fun e => { e with versions := e.versions.modify (i - 1) fun v => { v with state := .complete } })
          trimmed).event (.versionDone (e.id.getD 0) v.id v.ordered v.good)
        if i = e.versions.length then
          edit (fun e => { e with finalSent := true })
            (tally .editionDone ((edit (fun e => { e with state := .complete }) x).event (.editionDone (e.id.getD 0))))
        else tally .versionDone x
      (∀ i v, e.cur = some i → e'.versions[i - 1]? = some v → v.state = .running → v.good = v.ordered →
        exec .copyPulse s = .next (done i v)) ∧
      ((∀ i v, e.cur = some i → e'.versions[i - 1]? = some v → ¬(v.state = .running ∧ v.good = v.ordered)) →
        exec .copyPulse s = .next trimmed))) ∧
  (∀ (s : State) (n : Nat) (c : StandCfg) (w : WasteStand), s.plant.standCfg n = some c → s.waste? n = some w →
    let set (l : List Mark) (f : RollRef) : State := { s with press := { s.press with waste := { s.press.waste with
      stands := updateIf (fun w => w.num == n) (fun w => { w with marks := l, folder := f }) s.press.waste.stands } } }
    (w.marks = [] → (s.bringUp n).waste? n = some w) ∧
    (∀ m ms, w.marks = m :: ms →
      let moves := passed (s.webPos n) (m.pos + mm c.pathLen) && !m.reached
      let folder := if moves then m.new else w.folder
      (passed (s.webPos n) (m.pos + mm c.pathLen + mm c.post) = true →
        (s.bringUp n).waste? n = ((set ms folder).bringUp n).waste? n) ∧
      (passed (s.webPos n) (m.pos + mm c.pathLen + mm c.post) = false → (s.bringUp n).waste? n = some { w with
        marks := { m with reached := m.reached || moves } :: ms, folder := folder })) ∧
    (∀ k, k ≠ n → (s.bringUp n).waste? k = s.waste? k) ∧
    (s.windowOpen n = true ↔ ∃ m ∈ w.marks, passed (s.webPos n) (m.pos + mm c.pathLen - mm c.pre) = true ∧
      passed (s.webPos n) (m.pos + mm c.pathLen + mm c.post) = false)) ∧
  (∀ s : State, s.bringAll = (((s.bringUp 1).bringUp 2).bringUp 3).bringUp 4) ∧
  (∀ (s : State) (waste : Bool),
    let one (u : State) (n : Nat) : State :=
      match (u.waste? n).map (fun w => w.folder) with
      | some (RollRef.record h) =>
        if (u.plant.roll? h).isSome then { u with plant := u.plant.modRoll h fun r => { r with
          copies := min 4294967295 (r.copies + 1)
          waste := if waste then min 4294967295 (r.waste + 1) else r.waste } }
        else { u with press := { u.press with waste := { u.press.waste with
          unattributed := min 4294967295 (u.press.waste.unattributed + 1) } } }
      | _ => { u with press := { u.press with waste := { u.press.waste with
          unattributed := min 4294967295 (u.press.waste.unattributed + 1) } } }
    s.attribute waste = ([1, 2, 3, 4].filter s.inUse).foldl one s ∧
    ∀ n, s.inUse n = if s.press.edition.state = .none then (s.plant.standCfg n).isSome
      else s.press.edition.stands.contains n)

/-- PRESS_RUN_RISE sets the START remainder, starts the first version of a LOADED edition and moves a RUNNING one from a
COMPLETE version to the next, else leaves the edition. PRESS_RUN_FALL clears the break latch, discards the trim windows,
leaves the edition, the gate and the remainders, clears run-out, sends a splice before its paste to DECEL with SPLICE_ABORTED
(PRESS_OFF) and both duties of the SPIN arm 0 (R140), and after the paste fires the knife at once (R137): the roles swap, the old
roll BUTT with D_filt as its diameter, the new one RUN with no claim of the stand, and without web the splice has failed; with web
the roll that was cut stays in the stand's field oldRoll for SPLICE_DONE (the model's choice, log 38). With no SPIN arm the stand is
IDLE and SPLICE_FAILED names no arm (the model's choice, log 54). The stands act in increasing number (the model's choice, log 26);
what else the estimator of the old arm holds stays (the model's choice, log 73). The edges act whatever level the pin showed before,
and outside RUN on a LINE node only the pin is set (log 2). -/
def Obligations.PressEdgesAreTaken : Prop :=
  (∀ s : State,
    let e := s.press.edition
    let pinned (on : Bool) : Plant := { s.plant with pressRun := on }
    let discarded : WebUnit := { s.press.web with stands := s.press.web.stands.map fun w =>
      { w with trimStart := none, trimCount := 0 } }
    let risen (web : WebUnit) (edition : EditionCounter) : State := { s with
      plant := pinned true
      press := { web := web, edition := edition, waste := { s.press.waste with
        start := if e.state = .none then 0 else e.startWaste } } }
    (s.plant.lineRun = false → exec .pressRunRise s = .next { s with plant := pinned true } ∧
      exec .pressRunFall s = .next { s with plant := pinned false }) ∧
    (s.plant.lineRun = true →
      (∀ v vs, e.state = .loaded → e.versions = v :: vs → exec .pressRunRise s = .next (risen s.press.web
        { e with versions := { v with state := .running } :: vs, cur := some 1, state := .running })) ∧
      (∀ before v w after, e.state = .running → e.cur = some (before.length + 1) →
        e.versions = before ++ v :: w :: after → v.state = .complete → exec .pressRunRise s = .next (risen discarded
          { e with versions := before ++ v :: { w with state := .running } :: after
                   cur := some (before.length + 2) })) ∧
      (e.state = .none ∨ e.state = .complete ∨ (e.state = .running ∧ ∀ i v, e.cur = some i →
          e.versions[i - 1]? = some v → v.state ≠ .complete ∨ e.versions.length ≤ i) →
        exec .pressRunRise s = .next (risen s.press.web e)) ∧
      exec .pressRunFall s = .next ((forEach (oneTo 4) State.standPressFall { s with
        plant := pinned false
        press := { s.press with web := discarded, waste := { s.press.waste with latch := false } } }).modPlant fun p =>
          { p with splice := { p.splice with pressStop := p.splice.stands.any (·.runOut) } }).settle ∧
      (∃ t, exec .pressRunFall s = .next t ∧ t.pending = s.pending ∧ t.plant.pressRun = false ∧
        t.press.edition = e ∧ t.press.web = discarded ∧ t.press.waste = { s.press.waste with latch := false } ∧
        (∀ n st, 1 ≤ n → n ≤ 4 → s.plant.stand? n = some st → ∃ st', t.plant.stand? n = some st' ∧ st'.runOut = false ∧
          (st.phase = .accel ∨ st.phase = .matched ∨ st.phase = .armed →
            st'.phase = .decel ∧ st'.matchedCount = 0 ∧ st'.fireTime = none ∧ st'.spliceNow = false) ∧
          (st.phase = .none ∨ st.phase = .verify ∨ st.phase = .decel → st'.phase = st.phase) ∧
          (∀ o c, st.phase = .pasted → st.runArm = some o → s.plant.standCfg n = some c →
            st'.knifeEnd = some (s.plant.clock.ms + BitVec.ofNat 32 c.pulseWidth) ∧
            ((st.arm o).state = .run → (st'.arm o).state = .butt) ∧
            ((st.arm o.other).state = .spin → st'.runArm = some o.other ∧ (st'.arm o.other).state = .run ∧
              st'.broken = (st.broken || !s.plant.webPresent n) ∧
              (s.plant.webPresent n = true → st'.phase = .verify ∧ st'.verifyStart = some (s.webPos n) ∧
                st'.oldRoll = (st.arm o).roll) ∧
              (s.plant.webPresent n = false → st'.phase = .none ∧ st'.verifyStart = none)) ∧
            ((st.arm o.other).state = .empty → st'.runArm = none ∧ st'.phase = .none)))))) ∧
  (∀ (u : State) (n : Nat) (st : Stand) (c : StandCfg), u.plant.stand? n = some st → u.plant.standCfg n = some c →
    u.plant.pressRun = false →
    let t := u.standPressFall n
    let ends (b : BusPort) (P : Stand → Prop) : Prop :=
      t.press = u.press ∧ t.plant.bus = b ∧ ∃ st', t.plant.stand? n = some st' ∧ st'.runOut = false ∧ P st'
    (st.phase = .none ∨ st.phase = .verify ∨ st.phase = .decel →
      t = u.modStand n fun y => { y with runOut := false }) ∧
    (st.phase = .accel ∨ st.phase = .matched ∨ st.phase = .armed →
      t.plant.rolls = u.plant.rolls ∧ ends (u.plant.bus.sendEvent (.spliceAborted n 2)) fun st' =>
        st'.phase = .decel ∧ st'.matchedCount = 0 ∧ st'.fireTime = none ∧ st'.spliceNow = false ∧
        st'.runArm = st.runArm ∧
        ∀ m, (st.arm m).state = .spin → (m = .b → st.armA.state ≠ .spin) →
          st'.arm m = { st.arm m with
            drive := 0, brake := 0, lastPulse := some ((st.arm m).lastPulse.getD u.plant.clock.us) } ∧
          st'.arm m.other = st.arm m.other) ∧
    (∀ o, st.phase = .pasted → st.runArm = some o → (st.arm o).state = .run →
      let cut (st' : Stand) : Prop := st'.knifeEnd = some (u.plant.clock.ms + BitVec.ofNat 32 c.pulseWidth) ∧
        st'.arm o = { st.arm o with state := .butt, brake := 1000, drive := 0, lastPulse := some u.plant.clock.us
                                    stopped := false, est := { (st.arm o).est with mode := .none } }
      let runs (st' : Stand) : Prop := st'.runArm = some o.other ∧ (st'.arm o.other).state = .run ∧
        (st'.arm o.other).drive = 0 ∧ (st'.arm o.other).est.mode = .seeding
      (∀ h r, (st.arm o).roll = .record h → u.plant.roll? h = some r → r.state = .run → t.plant.roll? h = some { r with
        state := .butt, prepared := false, diam := ((st.arm o).est.dFilt <|> r.diam) }) ∧
      ((st.arm o.other).state = .spin →
        (∀ h r, (st.arm o.other).roll = .record h → (st.arm o).roll ≠ .record h → u.plant.roll? h = some r →
          r.state = .ready → t.plant.roll? h = some { r with
            state := .run, claim := if r.claim = .stand n then .none else r.claim }) ∧
        (u.plant.webPresent n = true → ends u.plant.bus fun st' => cut st' ∧ runs st' ∧ st'.phase = .verify ∧
          st'.verifyStart = some (u.webPos n) ∧ st'.oldRoll = (st.arm o).roll) ∧
        (u.plant.webPresent n = false → ends (u.plant.bus.sendEvent (.spliceFailed n (some o.other))) fun st' =>
          cut st' ∧ runs st' ∧ st'.phase = .none ∧ st'.verifyStart = none ∧ st'.broken = true)) ∧
      ((st.arm o.other).state ≠ .spin → ends (u.plant.bus.sendEvent (.spliceFailed n none)) fun st' =>
        cut st' ∧ st'.runArm = none ∧ st'.phase = .none ∧ st'.arm o.other = st.arm o.other)))

/-- TRIM_WINDOW_END of a window that has counted its copies: K follows the copies, within 0.5% a step and 3% of K0, with
TRIM_LIMIT HIGH, LOW or NO_PULSES where a clamp at K0 bites or no web was measured; the window begins again. One that has
not, or is not counting, is left alone (log 2; the row is given by itself, log 30). -/
def Obligations.TrimWindowsEnd : Prop :=
  ∀ (s : State) (n : Nat) (w : WebStand) (c : StandCfg), s.plant.lineRun = true → s.web? n = some w →
    s.plant.standCfg n = some c →
    (∀ start, w.trimStart = some start → c.trimLen ≤ w.trimCount →
      let measured := (WebAcc.whole w.w - start).toNat
      let expected := c.trimLen * s.press.edition.cutOff * 1000
      let raw := (w.k * expected + measured / 2) / measured
      let step := max (w.k - w.k / 200) (min (w.k + w.k / 200) raw)
      let hi := c.k0 + 3 * c.k0 / 100
      let lo := c.k0 - 3 * c.k0 / 100
      let ended (k : Nat) : State := { s with press := { s.press with web := { s.press.web with
        stands := updateIf (fun x => x.num == n)
          (fun _ => { w with k := k, trimStart := some (WebAcc.whole w.w), trimCount := 0 }) s.press.web.stands } } }
      exec (.trimWindowEnd n) s = .next (
        if measured = 0 then (ended w.k).event (.trimLimit n w.k 3)
        else if hi < step then (ended hi).event (.trimLimit n hi 1)
        else if step < lo then (ended lo).event (.trimLimit n lo 2)
        else ended step)) ∧
    (w.trimStart = none ∨ w.trimCount < c.trimLen → exec (.trimWindowEnd n) s = .next s)

/-- Every step keeps the edition record in order: gross is the sum of the classes, good the sum of the versions' counts,
versions complete exactly at their ordered counts and in their order. And, on its own premise, every step keeps each stand's mark
queue to at most 4 marks. -/
def Obligations.StepsKeepTheEditionInOrder : Prop :=
  ∀ s t : State, step s = .next t →
    (s.press.edition.InOrder → t.press.edition.InOrder) ∧ (s.MarksInOrder → t.MarksInOrder)

/-- Only seven commands change the edition record or the waste gate; the gate changes only at a copy pulse, or is turned off
by a cold reset. -/
def Obligations.EditionAndGateChangeOnlyByTheirCommands : Prop :=
  ∀ s t : State, step s = .next t →
    (t.press.edition = s.press.edition ∧ t.press.waste.gate = s.press.waste.gate) ∨
    ∃ c rest, s.pending = c :: rest ∧
      c ∈ [Instr.coldReset, .edition, .amend, .editionEnd, .requestTally, .copyPulse, .pressRunRise] ∧
      (t.press.waste.gate = s.press.waste.gate ∨ c = .copyPulse ∨ (c = .coldReset ∧ t.press.waste.gate = false))

/-! ### The field link, the track and the carts (04, 11) -/

/-- The poll of a module carries what its blocks last set; only the module polled is heard, and the next in number is polled after
it (log 39). An answer with one new reading notes it and delivers it once, if it is an event, to the device of its point; an empty
answer only ends the missed scans (its form: log 6). A missed scan below the third is counted, and goes on being counted while the
module is lost; the third, in SURVEY, makes the module lost, and in RUN its track is taken out of service too, its sections, then
its stops, then the tasks there, each in increasing number (of several tasks: log 67): its sections BLOCKED with cause MODULE, one
SECTION_BLOCKED each (one BLOCKED already sends none: log 47). A RESERVED section and those ahead of it leave the cart's held list,
those ahead FREE, and the cart goes on with what is left (with nothing left and still at its stop it waits there again: log 28);
the cart that occupies a section enters FAULT, cause MODULE. At its stops transfers and warnings, and the conveyors, go off; a cart
STARTING or in TRANSFER there enters FAULT, no other cart does (log 28). A task that such a cart holds fails with no event of its
own (R103). An ASSIGNED task with its from stop there is WAITING again, its suspensions as they were, and its cart holds no task
and is free (R101; also where its park leg is only kept or refused: log 53). MODULE_LOST, given by itself, does the same for a
count that stands at 3 (log 30). A lost module that answers in RUN has its readings merged and its stops, sections, arms and stand
inputs surveyed again. A stop back with its roll gone loses it, but for a CONVEYING link's OUT stop (log 66). An arm that reads
loaded and has no record gets one or, with the table full, TABLE_FULL; an EMPTY one is MOUNTED; any other stays, and one whose
reading differs has that delivered. -/
def Obligations.ModulesAnswerOrAreLost : Prop :=
  ∀ (s : State) (m : Nat) (r : ModuleRec), s.plant.module? m = some r →
    let next (p : Plant) : Plant := { p with polled := if p.modules.length ≤ p.polled then 1 else p.polled + 1 }
    let counted (n : Nat) (lost : Bool) (p : Plant) : Plant :=
      p.modModule m fun x => { x with missed := x.missed + n, lost := x.lost || lost }
    let answered : State := { s with plant := (next s.plant).modModule m fun x =>
      { x with missed := 0, lost := false, answered := true } }
    let faulted (k : Cart) : Cart := { k with
      state := .fault, leg := none, queued := none, startWait := none, startsFrom := none, transit := none, transfer := none
      lastFault := some .module }
    (s.plant.node = .survey ∨ s.plant.node = .run → s.plant.polled = m → 0 < m →
      ∀ k, s.plant.image.modules[m - 1]? = some k → ∃ outs, s.plant.poll = some (k.address, outs) ∧
        (∀ n c x, 1 ≤ n → n ≤ s.plant.image.sections.length → s.plant.sectionCfg n = some c → c.modNo = m →
          s.plant.section? n = some x → (c.drivePoint, .drive x.level) ∈ outs) ∧
        (∀ x c y, 1 ≤ x → x ≤ 40 → s.plant.stopCfg x = some c → c.modNo = m → s.plant.stop? x = some y →
          (c.firstPoint + 2, .point y.point) ∈ outs ∧ (c.firstPoint + 3, .transfer y.transfer) ∈ outs ∧
            (c.firstPoint + 4, .warning y.warning) ∈ outs) ∧
        (∀ n c l, s.plant.linkCfg n = some c → c.convModule = m → s.plant.link? n = some l → (c.convPoint, .conveyor
          ((l.out.state == .conveying || l.out.state == .inTransit) && !r.lost)) ∈ outs)) ∧
    (s.plant.node ≠ .survey → s.plant.node ≠ .run → s.plant.poll = none ∧ exec (.moduleLost m) s = .next s) ∧
    (s.plant.polled ≠ m ∨ (s.plant.node ≠ .survey ∧ s.plant.node ≠ .run) →
      exec (.missedScan m) s = .next s ∧ ∀ inputs, exec (.fieldAnswer m inputs) s = .next s) ∧
    (s.plant.polled = m → s.plant.node = .survey ∨ (s.plant.node = .run ∧ r.lost = false) →
      exec (.fieldAnswer m []) s = .next answered) ∧
    (∀ before v k, s.plant.polled = m → s.plant.node = .run → r.lost = false → v ≠ .nothing → before < r.inputs.length →
      s.plant.pointOf m (before + 1) = some k →
      exec (.fieldAnswer m (List.replicate before .nothing ++ [v])) s = .next (
        let noted : State := { answered with plant := answered.plant.setInput m (before + 1) v }
        if isEvent (r.input (before + 1)) v = true then (noted.deliver k v).settle else noted)) ∧
    (s.plant.polled = m → s.plant.node = .survey ∨ s.plant.node = .run → r.missed + 1 < 3 ∨ r.lost = true →
      exec (.missedScan m) s = .next { s with plant := counted 1 false (next s.plant) }) ∧
    (s.plant.polled = m → s.plant.node = .survey → 3 ≤ r.missed + 1 → r.lost = false →
      exec (.missedScan m) s = .next { s with plant := counted 1 true (next s.plant) }) ∧
    (s.plant.polled = m → s.plant.node = .run → 3 ≤ r.missed + 1 → r.lost = false →
      exec (.missedScan m) s = .next { s with plant := ((counted 1 true (next s.plant)).trackLost m).settle }) ∧
    (s.plant.node = .survey → 3 ≤ r.missed → r.lost = false →
      exec (.moduleLost m) s = .next { s with plant := counted 0 true s.plant }) ∧
    (s.plant.node = .run → 3 ≤ r.missed → r.lost = false →
      exec (.moduleLost m) s = .next { s with plant := ((counted 0 true s.plant).trackLost m).settle }) ∧
    (∀ p : Plant,
      let sections : List Nat := ((List.range p.image.sections.length).map (· + 1)).filter fun n =>
        (p.sectionCfg n).map (·.modNo) = some m
      let stops (q : Plant) : List Nat := (((List.range 40).filterMap fun i => q.stopCfg (i + 1)).filter (·.modNo = m)).map (·.num)
      let blocked : Plant := sections.foldl Plant.loseSection p
      let off : Plant := (stops blocked).foldl Plant.loseStop blocked
      let faultsWithTask (k : Cart) (events : BusPort) (q : Plant) (left : Cart) : Prop :=
        ∀ n o r, k.task = some n → p.task? n = some o → o.cart = some k.num → o.kind ≠ .ship → p.roll? o.roll = some r →
          (∀ i, r.loc = .cart i → i = k.num) → p.sched.queue.length ≤ 16 → (∀ y ∈ p.traffic.stops, y.pending = none) →
          (∀ y ∈ p.traffic.carts, y.pending = none) → (∀ y ∈ p.splice.stands, y.pendingUnload = none) →
          q.bus = events ∧ q.cart? k.num = some { faulted left with task := none } ∧
            (p.sched.queue.map (·.num)).filter (· != n) <+: q.sched.queue.map (·.num)
      p.trackLost m = (stops off).foldl Plant.loseTasks off ∧
      p.trackBack m = sections.foldl Plant.sectionBack ((stops p).foldl Plant.stopBack p) ∧
      (∀ n y, p.section? n = some y → y.state = .free → p.loseSection n =
        (p.modSection n fun z => { z with state := .blocked, level := .stop }).event (.sectionBlocked n 3)) ∧
      (∀ x y, p.stop? x = some y → ((p.loseStop x).stop? x).map (fun z => (z.transfer, z.warning)) = some (none, false)) ∧
      (∀ c l, p.linkCfg l.num = some c → c.convModule = m → (p.module? m).map (·.lost) = some true →
        p.conveyor l = false) ∧
      (∀ n y k before after, p.section? n = some y → p.cart? k.num = some k → k.held = before ++ n :: after → n ∉ before →
        (y.state = .reserved k.num →
          (p.loseSection n).section? n = some { y with state := .blocked, level := .stop } ∧
          (p.loseSection n).bus = p.bus.sendEvent (.sectionBlocked n 3) ∧
          (∀ a ∈ after, ∀ z, p.section? a = some z → z.state.holder = some k.num → a ≠ n →
            ((p.loseSection n).section? a).map (·.state) = some .free) ∧
          ((p.loseSection n).cart? k.num).map (·.held) = some before ∧
          (before ≠ [] → (p.loseSection n).cart? k.num = some { k with held := before })) ∧
        (y.state = .occupied k.num →
          let events : BusPort := (p.bus.sendEvent (.sectionBlocked n 3)).sendEvent (.cartFault k.num .module k.pos)
          (k.task = none →
            (p.loseSection n).section? n = some { y with state := .blocked, level := .stop } ∧
            (p.loseSection n).bus = events ∧ (p.loseSection n).cart? k.num = some (faulted { k with held := before })) ∧
          faultsWithTask k events (p.loseSection n) { k with held := before })) ∧
      (∀ x before k after, p.traffic.carts = before ++ k :: after → k.pos = some (.stop x) →
        k.state = .starting ∨ k.state = .transfer →
        (∀ c ∈ before, c.num ≠ k.num ∧ (c.pos = some (.stop x) → c.state ≠ .starting ∧ c.state ≠ .transfer)) →
        let events : BusPort := p.bus.sendEvent (.cartFault k.num .module (some (.stop x)))
        (k.task = none → (p.loseStop x).bus = events ∧ (p.loseStop x).cart? k.num = some (faulted k)) ∧
        faultsWithTask k events (p.loseStop x) k) ∧
      (∀ x, (∀ c ∈ p.traffic.carts, c.pos = some (.stop x) → c.state ≠ .starting ∧ c.state ≠ .transfer) →
        (p.loseStop x).bus = p.bus ∧ (p.loseStop x).traffic.carts = p.traffic.carts) ∧
      (∀ x t k, p.queueOrder.filter (fun o => o.state == .assigned && p.fromStop o == some x) = [t] →
        p.task? t.num = some t → t.cart = some k.num → p.cart? k.num = some k → k.task = some t.num →
        (∀ o ∈ p.sched.queue, o.dest ≠ some x) →
        let q := p.loseTasks x
        q.bus = p.bus ∧ q.task? t.num = some { t with
          state := .waiting, cart := none, dest := if t.kind = .stow ∨ t.kind = .unload then none else t.dest } ∧
        ∃ c, q.cart? k.num = some c ∧ c.task = none ∧
          (k.state = .starting ∨ k.state = .running ∨ k.state = .held → k.leg = some { stop := x, task := some t.num } →
            k.queued = none → k.pending = none → k.noRecord = false →
            (∀ y, k.pos = some (.stop y) → p.stopLost y = false) → q.isFree c = true))) ∧
    (s.plant.polled = m → s.plant.node = .run → r.lost = true → ∀ inputs,
      let merged : Plant := (next s.plant).modModule m fun x => { x with
        missed := 0, lost := false, answered := true
        inputs := x.inputs.zipIdx.map fun o => if inputs.getD o.2 .nothing = .nothing then o.1 else inputs.getD o.2 .nothing }
      exec (.fieldAnswer m inputs) s = .next (forEach (oneTo r.inputs.length) (fun s pt => s.standBack m r pt)
        (({ s with plant := merged.trackBack m } : State).armsBack m)).settle) ∧
    (∀ u : State,
      (∀ n y, u.plant.section? n = some y → y.state = .blocked →
        (u.plant.occupied n = false → u.plant.someCartExpected n = false →
          ((u.plant.sectionBack n).section? n).map (·.state) = some .free) ∧
        (u.plant.occupied n = true ∨ u.plant.someCartExpected n = true → u.plant.sectionBack n = u.plant)) ∧
      (∀ x y k, u.plant.stop? x = some y → u.plant.stopKind x = some k → holdsRolls k = true →
        u.plant.sensorHeld x = false →
        (∀ h, y.roll = some h → u.plant.sensor x = false → u.plant.conveyingAt x = none →
          u.plant.stopBack x = u.plant.loseRoll h (.stop x)) ∧
        (y.roll = none → y.expected = none → u.plant.sensor x = true →
          (∀ q ∈ u.plant.rolls, q.roll.isSome = true) →
          u.plant.stopBack x = (u.plant.event (.tableFull 0 (.stop x))).rechooseBound x) ∧
        (y.roll.isSome = true → u.plant.sensor x = true → u.plant.stopBack x = u.plant)) ∧
      u.armsBack m = (((List.range 4).filterMap fun i => u.plant.standCfg (i + 1)).filter (·.modNo = m)).foldl
        (fun v c => if v.plant.lineRun = true then (v.armBack c.num .a).armBack c.num .b else v) u ∧
      (∀ n k c a, u.plant.standCfg n = some c → u.plant.arm? n k = some a →
        let shows : Prop := u.plant.sensorHeld c.standStop = false ∧ u.plant.armLoaded n k = true
        let room : Option (Handle × Plant) := u.plant.createRoll (unknownRoll u.plant.core .mounted (.arm n k))
        let mounted (r : RollRef) (q : Plant) : State := { u with plant := q.modArm n k fun b =>
          { b with state := .mounted, roll := r, brake := 1000, drive := 0 } }
        (¬shows ∨ (a.roll ≠ .unrecorded ∧ a.state ≠ .empty) → u.armBack n k = u) ∧
        (∀ h q, shows → a.roll = .unrecorded → room = some (h, q) →
          ((u.armBack n k).plant.roll? h).isSome = true ∧
            ((u.armBack n k).plant.arm? n k).map (·.roll) = some (.record h)) ∧
        (shows → a.roll = .unrecorded → room = none → u.armBack n k = u.event (.tableFull 0 (.arm n k))) ∧
        (∀ h q, shows → a.roll ≠ .unrecorded → a.state = .empty → room = some (h, q) →
          u.armBack n k = mounted (.record h) q) ∧
        (shows → a.roll ≠ .unrecorded → a.state = .empty → room = none →
          u.armBack n k = mounted .unrecorded (u.plant.event (.tableFull 0 (.arm n k))))) ∧
      (∀ pt n x, u.plant.module? m = some x → u.plant.pointOf m pt = some (.web n) → u.plant.lineRun = true →
        u.standBack m r pt = if inputOn (x.input pt) = inputOn (r.input pt) then u
          else u.webPresentChanged n (inputOn (x.input pt))) ∧
      (∀ pt n k x, u.plant.module? m = some x → u.plant.pointOf m pt = some (.armLoaded n k) → u.plant.lineRun = true →
        u.standBack m r pt = if inputOn (x.input pt) = inputOn (r.input pt) then u
          else u.armLoadedChanged n k (inputOn (x.input pt))) ∧
      (∀ pt n, u.plant.pointOf m pt = some (.spliceNow n) → u.standBack m r pt = u))

/-- OCCUPANCY_CHANGE: present in a FREE section where no cart is expected blocks it (cause OCCUPANCY); clear frees a BLOCKED one
where none is expected, its points to RING, and one OCCUPIED by a MANUAL cart, off that cart's list (R84); any other is noted
alone. SECTION_TAG_READ of the cart a section is RESERVED for: OCCUPIED, its position, the sections behind FREE. A cart not in the
table, or in AUTO, blocks a FREE section (UNEXPECTED_CART) and one another cart holds, whose holder is in FAULT and loses the
sections ahead; a table cart not expected there, BLOCKED or not, is in FAULT too (also one in FAULT already: the model's choice,
log 70). A repeated read notes the load flag alone, that of a cart in FAULT in its RESERVED section also its position (R67). A
read in MANUAL makes a cart in AUTO MANUAL, with CART_MANUAL; it keeps the sections up to the last it occupies (which: log 18). A
MANUAL cart is driven into a section (R84): a FREE one is OCCUPIED by it, a BLOCKED one stays so, one another cart holds is
BLOCKED and its holder in FAULT (R67). The arm a transfer named is forgotten where the cart is read elsewhere (log 19). The
arbiter, which ends every settling: a cart on a leg asks for its stop's section, then for the one after its last, up to three and
not beyond its turn-in; after the first, for none with its destination's module lost (R68; the first also then: log 52). A cart on
the ring before a starting one, then the lower number is granted a FREE section (R69; log 75): RESERVED and held; a starting cart's stop
gets SPUR, warning and a start wait of 3 s, the destination's section its point, but on a lost module (R65, R75). The level is
CREEP turning in (not with the destination's module lost: log 33), else RUN, CREEP or STOP with three, two or one held; at STOP a
cart is HELD, its transit timer off, and one that rises RUNNING for 20 s (R70, R78); every section is at its holder's level, FREE
or BLOCKED at STOP. (Logs 19, 33 and 52: the model's choices.) -/
def Obligations.SectionsFollowSensorsAndTags : Prop :=
  (∀ (s t : State) (n : Nat) (x : Section), s.plant.section? n = some x →
    let blocked (cause : Nat) : State := (({ t with plant := t.plant.modSection n fun y =>
      { y with state := .blocked, level := .stop } }).event (.sectionBlocked n cause)).settle
    (s.Fires (.occupancy n) (.level true) t → x.state = .free → s.plant.someCartExpected n = false →
      exec (.occupancyChange n true) s = .next (blocked 1)) ∧
    (s.Fires (.occupancy n) (.level true) t → x.state ≠ .free ∨ s.plant.someCartExpected n = true →
      exec (.occupancyChange n true) s = .next t.settle) ∧
    (s.Fires (.occupancy n) (.level false) t → x.state = .blocked → s.plant.someCartExpected n = false →
      ∃ q, exec (.occupancyChange n false) s = .next ({ t with plant := q }).settle ∧
        q.section? n = some { x with state := .free, level := .stop } ∧ q.bus = t.plant.bus ∧ q.rolls = t.plant.rolls ∧
        (∀ c y, t.plant.stop? c = some y → ∃ z, q.stop? c = some z ∧ z.roll = y.roll ∧ z.cart = y.cart ∧
          z.claim = y.claim ∧
          z.point = if t.plant.stopSec c = some n ∧ 1 ≤ c ∧ c ≤ 40 ∧ t.plant.stopLost c = false then .ring else y.point)) ∧
    (∀ c k, s.Fires (.occupancy n) (.level false) t → x.state = .occupied c → s.plant.cart? c = some k →
      k.state = .manual →
      ∃ q, exec (.occupancyChange n false) s = .next ({ t with plant := q }).settle ∧
        q.section? n = some { x with state := .free, level := .stop } ∧
        q.cart? c = some { k with held := k.held.filter (· != n) } ∧ q.bus = t.plant.bus ∧ q.rolls = t.plant.rolls) ∧
    (s.Fires (.occupancy n) (.level false) t →
      x.state = .free ∨ (∃ c, x.state = .reserved c) ∨ (x.state = .blocked ∧ s.plant.someCartExpected n = true) ∨
        (∃ c k, x.state = .occupied c ∧ s.plant.cart? c = some k ∧ k.state ≠ .manual) →
      exec (.occupancyChange n false) s = .next t.settle) ∧
    (∀ c k loaded, s.Fires (.sectionTag n) (.tag c false loaded) t → x.state = .reserved c → s.plant.cart? c = some k →
      k.state ≠ .fault → k.state ≠ .manual →
      ∃ q, exec (.sectionTagRead n c false loaded) s = .next ({ t with plant := q }).settle ∧
        (q.section? n).map (·.state) = some (.occupied c) ∧ q.bus = t.plant.bus ∧ q.rolls = t.plant.rolls ∧
        (∃ k', q.cart? c = some k' ∧ k'.pos = some (.sec n) ∧ k'.held = k.held.dropWhile (· != n) ∧
          k'.loadFlag = loaded ∧ k'.state = k.state ∧ k'.leg = k.leg ∧ k'.load = k.load ∧
          k'.transit = if k.state = .running then some (s.plant.clock.ms + 20000#32) else k.transit) ∧
        (∀ b ∈ k.held.takeWhile (· != n), ∀ y, s.plant.section? b = some y → y.state.holder = some c →
          (q.section? b).map (fun z => (z.state, z.level)) = some (.free, .stop))) ∧
    (∀ c loaded, s.Fires (.sectionTag n) (.tag c false loaded) t → x.state = .free → s.plant.cart? c = none →
      exec (.sectionTagRead n c false loaded) s = .next (blocked 2)) ∧
    (∀ c k manual loaded, s.Fires (.sectionTag n) (.tag c manual loaded) t → x.state = .free →
      s.plant.cart? c = some k → k.state = .manual →
      ∃ q, exec (.sectionTagRead n c manual loaded) s = .next ({ t with plant := q }).settle ∧
        q.section? n = some { x with state := .occupied c, level := .stop } ∧ q.bus = t.plant.bus ∧
        q.rolls = t.plant.rolls ∧ q.cart? c = some { k with
          pos := some (.sec n), loadFlag := loaded, arm := if k.pos = some (.sec n) then k.arm else none }) ∧
    (∀ c loaded, s.Fires (.sectionTag n) (.tag c false loaded) t →
      let ends (P : Plant → Prop) : Prop :=
        ∃ q, exec (.sectionTagRead n c false loaded) s = .next ({ t with plant := q }).settle ∧ q.rolls = t.plant.rolls ∧ P q
      let faulted (k : Cart) : Cart := { k with
        state := .fault, leg := none, queued := none, startWait := none, startsFrom := none, transit := none, transfer := none
        lastFault := some .unexpected }
      let stray (k : Cart) (b : BusPort) (q : Plant) : Prop :=
        (k.expectedIn n = true → q.bus = b ∧ q.cart? c = some { k with loadFlag := loaded }) ∧
        (k.expectedIn n = false → q.bus = b.sendEvent (.cartFault c .unexpected (some (.sec n))) ∧
          q.cart? c = some { faulted k with loadFlag := loaded, pos := some (.sec n), arm := none })
      (∀ k, x.state = .occupied c → s.plant.cart? c = some k → k.state ≠ .manual →
        exec (.sectionTagRead n c false loaded) s =
          .next ({ t with plant := t.plant.modCart c fun y => { y with loadFlag := loaded } }).settle) ∧
      (∀ k, x.state = .reserved c → s.plant.cart? c = some k → k.state = .fault → ends fun q =>
        q.bus = t.plant.bus ∧ q.traffic.sections = t.plant.traffic.sections ∧ q.cart? c = some { k with
          pos := some (.sec n), loadFlag := loaded, arm := if k.pos = some (.sec n) then k.arm else none }) ∧
      (∀ i o, x.state = .reserved i ∨ x.state = .occupied i → i ≠ c → s.plant.cart? i = some o → o.task = none →
        let b := (t.plant.bus.sendEvent (.sectionBlocked n 2)).sendEvent (.cartFault i .unexpected o.pos)
        let held (q : Plant) : Prop := (q.section? n).map (fun y => (y.state, y.level)) = some (.blocked, .stop) ∧
          q.cart? i = some { faulted o with held := o.held.takeWhile (· != n) } ∧
          ∀ a ∈ (o.held.dropWhile (· != n)).drop 1, a ≠ n → ∀ y, s.plant.section? a = some y → y.state.holder = some i →
            (q.section? a).map (·.state) = some .free
        (s.plant.cart? c = none → ends fun q => held q ∧ q.bus = b) ∧
        (∀ k, s.plant.cart? c = some k → k.state ≠ .manual → k.task = none → ends fun q => held q ∧ stray k b q)) ∧
      (x.state = .blocked → s.plant.cart? c = none → exec (.sectionTagRead n c false loaded) s = .next t.settle) ∧
      (∀ k, x.state = .free ∨ x.state = .blocked → s.plant.cart? c = some k → k.state ≠ .manual → k.task = none →
        ends fun q => (q.section? n).map (·.state) = some .blocked ∧
          stray k (if x.state = .free then t.plant.bus.sendEvent (.sectionBlocked n 2) else t.plant.bus) q)) ∧
    (∀ c k manual loaded, s.Fires (.sectionTag n) (.tag c manual loaded) t → s.plant.cart? c = some k →
      manual = true ∨ k.state = .manual → k.task = none ∨ k.state = .manual →
      let within (a : Nat) : Prop := (s.plant.section? a).map (·.state) = some (.occupied c) ∨ k.pos = some (.sec a)
      let arm := if k.pos = some (.sec n) then k.arm else none
      -- the cart MANUAL in the section, CART_MANUAL sent unless it was so before, and the sections it keeps (R71)
      let driven (b : BusPort) (q : Plant) : Prop :=
        (k.state = .manual → q.bus = b ∧ q.cart? c = some { k with pos := some (.sec n), loadFlag := loaded, arm := arm }) ∧
        (k.state ≠ .manual → q.bus = b.sendEvent (.cartManual c (some (.sec n))) ∧
          ∃ kept, kept <+: k.held ∧ (∀ a ∈ k.held, within a → a ∈ kept) ∧ (∀ a, kept.getLast? = some a → within a) ∧
            q.cart? c = some { k with
              state := .manual, pos := some (.sec n), loadFlag := loaded, leg := none, queued := none, startWait := none
              startsFrom := none, transit := none, transfer := none, arm := arm, held := kept.filter t.plant.occupied } ∧
            (k.held.Nodup → ∀ a ∈ k.held, a ≠ n → ∀ y, s.plant.section? a = some y → y.state.holder = some c →
              (q.section? a).map (·.state) = some (if a ∈ kept ∧ t.plant.occupied a = true then .occupied c else .free)))
      let ends (P : Plant → Prop) : Prop :=
        ∃ q, exec (.sectionTagRead n c manual loaded) s = .next ({ t with plant := q }).settle ∧ q.rolls = t.plant.rolls ∧ P q
      (x.state = .free ∨ (k.state ≠ .manual ∧ n ∈ k.held ∧ (x.state = .reserved c ∨ x.state = .occupied c)) → ends fun q =>
        driven t.plant.bus q ∧ (q.section? n).map (·.state) = some (.occupied c)) ∧
      (x.state = .blocked ∨ (k.state = .manual ∧ (x.state = .reserved c ∨ x.state = .occupied c)) → ends fun q =>
        driven t.plant.bus q ∧ (q.section? n).map (·.state) = some x.state) ∧
      (∀ i o, x.state = .reserved i ∨ x.state = .occupied i → i ≠ c → s.plant.cart? i = some o → o.task = none →
        ends fun q => driven ((t.plant.bus.sendEvent (.sectionBlocked n 2)).sendEvent (.cartFault i .unexpected o.pos)) q ∧
          (q.section? n).map (fun y => (y.state, y.level)) = some (.blocked, .stop) ∧
          q.cart? i = some { o with
            state := .fault, leg := none, queued := none, startWait := none, startsFrom := none, transit := none
            transfer := none, lastFault := some .unexpected, held := o.held.takeWhile (· != n) } ∧
          ∀ a ∈ (o.held.dropWhile (· != n)).drop 1, a ≠ n → ∀ y, s.plant.section? a = some y → y.state.holder = some i →
            (q.section? a).map (·.state) = some .free))) ∧
  (∀ (p : Plant) (c : Cart) (x : Nat),
    (p.turningIn c x = true ↔ ∃ d y z, p.stopSec x = some d ∧ p.stop? x = some y ∧ p.section? d = some z ∧
      c.held.head? = some d ∧ z.state = .occupied c.num ∧ y.point = .arrive c.num) ∧
    (c.leg = none ∨ (c.state ≠ .starting ∧ c.state ≠ .running ∧ c.state ≠ .held) → p.wants c = none) ∧
    (∀ leg, c.leg = some leg → c.state = .starting ∨ c.state = .running ∨ c.state = .held →
      (c.held = [] → c.state = .starting → c.pos = some (.stop x) → p.wants c = p.stopSec x) ∧
      (∀ last, c.held.getLast? = some last →
        let turned : Prop := p.stopSec leg.stop = some last ∧ (2 ≤ c.held.length ∨ p.turningIn c leg.stop = true)
        (c.held.length < 3 → p.stopLost leg.stop = false → ¬turned →
          p.wants c = some (if p.image.sections.length ≤ last then 1 else last + 1)) ∧
        (3 ≤ c.held.length ∨ p.stopLost leg.stop = true ∨ turned → p.wants c = none)))) ∧
  (∀ p : Plant,
    let asks (k : Cart) (n : Nat) : Prop :=
      k ∈ p.traffic.carts ∧ p.wants k = some n ∧ ∃ y, p.section? n = some y ∧ y.state = .free
    ((∀ k n, ¬asks k n) → p.arbiterRound = none) ∧
    (∀ k n, asks k n → (∀ k' n', asks k' n' → (k' = k ∧ n' = n) ∨ (k.held ≠ [] ∧ k'.held = []) ∨
        ((k.held = [] ↔ k'.held = []) ∧ k.num < k'.num)) →
      p.arbiterRound = some (p.grant k n)) ∧
    (p.traffic.sections.length ≤ 16 → p.arbitrate.arbiterRound = none) ∧
    ∃ q : Plant, p.settle = q.arbitrate.settleLevels) ∧
  (∀ (p : Plant) (c : Cart) (n : Nat) (z : Section), p.cart? c.num = some c → p.section? n = some z →
    let q := p.grant c n
    q.bus = p.bus ∧ q.rolls = p.rolls ∧ q.section? n = some { z with state := .reserved c.num } ∧
    (∀ x y, c.held = [] → c.pos = some (.stop x) → p.stop? x = some y →
      q.cart? c.num = some { c with held := [n], startWait := some (p.clock.ms + 3000#32), startsFrom := some x } ∧
      q.stop? x = some { y with
        point := if p.stopLost x = true then y.point else .depart c.num
        warning := true }) ∧
    (c.held ≠ [] → q.cart? c.num = some { c with held := c.held ++ [n] } ∧
      ∀ leg y, c.leg = some leg → p.stop? leg.stop = some y →
        q.stop? leg.stop = some { y with
          point := if p.stopSec leg.stop = some n ∧ p.stopLost leg.stop = false then .arrive c.num else y.point })) ∧
  (∀ (p : Plant) (c : Cart),
    let turns : Prop := ∃ leg, c.leg = some leg ∧ p.turningIn c leg.stop = true ∧ p.stopLost leg.stop = false
    let q := p.settleCart c
    (c.state = .running ∨ c.state = .held →
      (turns → p.cartLevel c = .creep) ∧
      (¬turns → 3 ≤ c.held.length → p.cartLevel c = .run) ∧
      (¬turns → c.held.length = 2 → p.cartLevel c = .creep) ∧
      (¬turns → c.held.length < 2 → p.cartLevel c = .stop) ∧
      (p.cart? c.num = some c → p.cartLevel c = .stop →
        q.cart? c.num = some { c with state := .held, transit := none }) ∧
      (p.cart? c.num = some c → p.cartLevel c ≠ .stop → c.state = .held →
        q.cart? c.num = some { c with state := .running, transit := some (p.clock.ms + 20000#32) }) ∧
      (p.cartLevel c ≠ .stop → c.state = .running → q = p)) ∧
    (c.state ≠ .running → c.state ≠ .held → p.cartLevel c = .stop ∧ q = p)) ∧
  (∀ p : Plant,
    let q := p.settleLevels
    q.bus = p.bus ∧ q.rolls = p.rolls ∧
    (∀ n y, q.section? n = some y → (p.section? n).map (·.state) = some y.state ∧
      (∀ c k, y.state.holder = some c → q.cart? c = some k → y.level = q.cartLevel k) ∧
      (y.state = .free ∨ y.state = .blocked → y.level = .stop)) ∧
    ((p.traffic.carts.map (·.num)).Nodup → ∀ c ∈ p.traffic.carts, q.cart? c.num = (p.settleCart c).cart? c.num))

/-- STOP_TAG_READ of the cart running to the stop (a HELD one too: the model's choice, log 69): it stands there with no leg, no
sections and no transit timer, PARKED at its PARK stop with no task and IDLE otherwise, or STARTING on the leg it kept (R77). A
cart in AUTO read at a stop it was not running to is in FAULT there (R76); one that stands there has its load flag noted. A read
in MANUAL makes it MANUAL (R84). A cart in FAULT or MANUAL read in AUTO is IDLE there, with CART_AUTO, and is reconciled with the
sensors (R85): a transfer either way taken as complete, at a SCRAP stop with the record deleted, at the OUT stop of the link
CARRYING the roll with its shipment going on to READY (R59; its SHIP task stays: the model's choice, log 64), what agrees left
alone, a record that no roll backs lost (its place the cart's stop, log 34), a roll with no record given one; a loaded cart is
asked a STOW or REJECT. At a STAND stop the arm of the interrupted transfer counts, its roll coming or going by hand otherwise,
and with none the cart's side alone, as at a PARK stop. (What else the estimator of an emptied arm holds stays: the model's
choice, log 73. The sections kept in MANUAL, up to the last occupied: the model's choice, log 18; the arm forgotten, and the
cart's side alone: log 19.) STOP_TAG_GONE of a departing cart: its section is OCCUPIED and its position, and the stop has no cart. -/
def Obligations.CartsArriveAndDepart : Prop :=
  ∀ (s t : State) (x c : Nat) (k : Cart) (st : Stop), s.plant.cart? c = some k → s.plant.stop? x = some st →
    let within (n : Nat) : Prop := (s.plant.section? n).map (·.state) = some (.occupied c) ∨ k.pos = some (.sec n)
    (∀ loaded, s.Fires (.stopTag x) (.tag c false loaded) t → k.runningTo x = true → st.cart = none → st.claim = some c →
      ∃ q, exec (.stopTagRead x c false loaded) s = .next ({ t with plant := q }).settle ∧ q.bus = t.plant.bus ∧
        q.rolls = t.plant.rolls ∧
        (let there : Cart := { k with
          state := if s.plant.parkStop c = some x ∧ k.task = none then .parked else .idle
          pos := some (.stop x), loadFlag := loaded, held := [], transit := none, leg := none, queued := none, arm := none }
         (k.queued = none ∨ (∃ l, k.queued = some l ∧ l.stop = x) → q.cart? c = some there) ∧
         (∀ l, k.queued = some l → l.stop ≠ x → q.cart? c = some { there with state := .starting, leg := some l })) ∧
        (∃ y, q.stop? x = some y ∧ y.cart = some c ∧ y.claim = some c ∧ y.roll = st.roll) ∧
        (∀ b ∈ k.held, ∀ y, s.plant.section? b = some y → y.state.holder = some c →
          (q.section? b).map (·.state) = some .free)) ∧
    (∀ loaded, s.Fires (.stopTag x) (.tag c false loaded) t → k.state ≠ .fault → k.state ≠ .manual →
      k.runningTo x = false →
      (k.pos = some (.stop x) → st.transfer = none → exec (.stopTagRead x c false loaded) s =
        .next ({ t with plant := t.plant.modCart c fun y => { y with loadFlag := loaded } }).settle) ∧
      (k.pos ≠ some (.stop x) → k.task = none →
        ∃ q, exec (.stopTagRead x c false loaded) s = .next ({ t with plant := q }).settle ∧
          q.bus = t.plant.bus.sendEvent (.cartFault c .unexpected (some (.stop x))) ∧ q.rolls = t.plant.rolls ∧
          q.traffic.sections = t.plant.traffic.sections ∧
          q.cart? c = some { k with
            state := .fault, pos := some (.stop x), loadFlag := loaded, leg := none, queued := none, startWait := none, startsFrom := none
            transit := none, transfer := none, arm := none, lastFault := some .unexpected } ∧
          (st.cart = none → (q.stop? x).map (·.cart) = some (some c)))) ∧
    (∀ loaded, s.Fires (.stopTag x) (.tag c true loaded) t → k.state ≠ .manual → k.task = none →
      ∃ q kept, exec (.stopTagRead x c true loaded) s = .next ({ t with plant := q }).settle ∧
        q.bus = t.plant.bus.sendEvent (.cartManual c (some (.stop x))) ∧ q.rolls = t.plant.rolls ∧
        kept <+: k.held ∧ (∀ n ∈ k.held, within n → n ∈ kept) ∧ (∀ n, kept.getLast? = some n → within n) ∧
        (k.held.Nodup → ∀ n ∈ k.held, ∀ y, s.plant.section? n = some y → y.state.holder = some c →
          (q.section? n).map (·.state) = some (if n ∈ kept ∧ t.plant.occupied n = true then .occupied c else .free)) ∧
        q.cart? c = some { k with
          state := .manual, pos := some (.stop x), loadFlag := loaded, leg := none, queued := none, startWait := none, startsFrom := none
          transit := none, transfer := none, arm := if k.pos = some (.stop x) then k.arm else none
          held := kept.filter t.plant.occupied }) ∧
    (∀ loaded kind, s.Fires (.stopTag x) (.tag c false loaded) t → k.state = .fault ∨ k.state = .manual → k.task = none →
      st.cart = none ∨ st.cart = some c → s.plant.stopKind x = some kind →
      let holds : Prop := kind = .slot ∨ kind = .prep ∨ kind = .dock ∨ kind = .inn ∨ kind = .out
      let named (n : Nat) (m : Arm) (a : ArmRec) : Prop := s.plant.standOfStop x = some n ∧ k.pos = some (.stop x) ∧
        k.arm = some m ∧ s.plant.arm? n m = some a
      let idle (h : Handle) : Prop := ∀ l ∈ s.plant.supply.links, l.out.roll = some h → l.out.state ≠ .carrying
      let side : Prop := (holds ∧ s.plant.sensor x = st.roll.isSome) ∨
        (st.roll = none ∧ (kind = .park ∨ (kind = .scrap ∧ (s.plant.sensor x = false ∨ k.load = none)))) ∨
        (kind = .stand ∧ (k.arm = none ∨ k.pos ≠ some (.stop x) ∨
          ∃ n m a, named n m a ∧ (s.plant.armLoaded n m = true ↔ a.state ≠ .empty)))
      let auto : BusPort := t.plant.bus.sendEvent (.cartAuto c (some (.stop x)))
      let ends (P : Plant → Prop) : Prop :=
        ∃ q, exec (.stopTagRead x c false loaded) s = .next ({ t with plant := q }).settle ∧ P q
      let aboard (q : Plant) (h : Handle) (kind : TaskKind) : Prop := (q.cart? c).map (·.load) = some (some h) ∧
        ∃ o ∈ q.sched.queue, o.kind = kind ∧ o.roll = h ∧ o.src = .cart c ∧ o.cart = some c ∧ o.state = .carrying
      let onArm (q : Plant) (n : Nat) (m : Arm) (a : ArmRec) (h : Handle) : Prop := q.arm? n m = some { a with
        state := .mounted, roll := .record h, brake := 1000, drive := 0 }
      let offArm (q : Plant) (n : Nat) (m : Arm) (a : ArmRec) : Prop := q.arm? n m = some { a with
        state := .empty, roll := .none, brake := 0, drive := 0, lastPulse := none, stopped := false
        est := { a.est with mode := .none, dFilt := none } }
      (side → k.load = none → loaded = false → ends fun q =>
        q.bus = auto ∧ q.rolls = t.plant.rolls ∧ q.cart? c = some { k with
          state := .idle, pos := some (.stop x), loadFlag := false, held := [], arm := none, noRecord := false }) ∧
      (∀ h r, holds → st.roll = some h → k.load = none → s.plant.sensor x = false → loaded = true →
        s.plant.roll? h = some r → r.state = .placed → s.plant.inTask h = false → s.plant.sched.queue.length < 16 →
        ends fun q => q.roll? h = some { r with state := .carried, loc := .cart c, claim := .none } ∧
          (q.stop? x).map (·.roll) = some none ∧ aboard q h (if r.rejected = true then .reject else .stow)) ∧
      (∀ h r, kind = .scrap → st.roll = none → k.load = some h → s.plant.sensor x = true → loaded = false →
        s.plant.roll? h = some r → idle h → s.plant.inTask h = false → ends fun q =>
          q.roll? h = none ∧ q.bus = auto ∧ (q.cart? c).map (·.load) = some none) ∧
      (∀ h r, holds → st.roll = none → k.load = some h → s.plant.sensor x = true → loaded = false →
        s.plant.roll? h = some r → r.state = .carried → ends fun q =>
          q.roll? h = some { r with state := .placed, loc := .stop x } ∧ (q.stop? x).map (·.roll) = some (some h) ∧
          (q.cart? c).map (·.load) = some none ∧
          ∀ l, kind = .out → s.plant.carryingTo x h = some l → r.claim ≠ .none ∨ s.plant.inTask h = true →
            q.bus = auto.send l.out.caller (.shipReady l.out.callNo r.snapshot) ∧
            q.supply = { s.plant.supply with
              holds := s.plant.supply.holds.filter (·.roll != h)
              links := updateIf (fun z => z.num == l.num) (fun z => { z with out := { z.out with
                state := .asking, coming := none, accept := some (s.plant.clock.ms + 2000#32) } }) s.plant.supply.links }) ∧
      (∀ h r, side → k.load = some h → loaded = true → s.plant.roll? h = some r → s.plant.inTask h = false →
        s.plant.sched.queue.length < 16 → ends fun q => q.roll? h = some { r with claim := .none } ∧
          aboard q h (if r.rejected = true then .reject else .stow)) ∧
      (∀ h r, side → k.load = some h → loaded = false →
        s.plant.roll? h = some r → idle h → s.plant.inTask h = false → ends fun q =>
          q.roll? h = none ∧ q.bus = auto.sendEvent (.rollLost (r.num.getD 0) (.stop x)) ∧
          (q.cart? c).map (·.load) = some none) ∧
      (∀ h q', side → k.load = none → loaded = true →
        s.plant.createRoll (unknownRoll s.plant.core .carried (.cart c)) = some (h, q') → s.plant.inTask h = false →
        s.plant.sched.queue.length < 16 → ends fun q =>
          q.roll? h = some (unknownRoll s.plant.core .carried (.cart c)) ∧ aboard q h .stow) ∧
      (∀ n m a, kind = .stand → named n m a →
        (∀ h r, a.state = .butt → a.roll = .record h → k.load = none → s.plant.armLoaded n m = false → loaded = true →
          s.plant.roll? h = some r → r.state = .butt → s.plant.inTask h = false → s.plant.sched.queue.length < 16 →
          ends fun q => q.roll? h = some { r with state := .carried, loc := .cart c, part := true, claim := .none } ∧
            offArm q n m a ∧ aboard q h (if r.rejected = true then .reject else .stow)) ∧
        (∀ h r, a.state = .empty → k.load = some h → s.plant.armLoaded n m = true → loaded = false →
          s.plant.roll? h = some r → r.state = .carried → ends fun q => q.bus = auto ∧
            q.roll? h = some { r with state := .mounted, loc := .arm n m } ∧ onArm q n m a h ∧
            (q.cart? c).map (·.load) = some none) ∧
        (∀ h q', a.state = .empty → k.load = none → s.plant.armLoaded n m = true → loaded = false →
          s.plant.createRoll (unknownRoll s.plant.core .mounted (.arm n m)) = some (h, q') → ends fun q => q.bus = auto ∧
            q.roll? h = some (unknownRoll s.plant.core .mounted (.arm n m)) ∧ onArm q n m a h) ∧
        (∀ h r, a.state = .mounted ∨ a.state = .ready ∨ a.state = .butt → a.roll = .record h → k.load = none →
          s.plant.armLoaded n m = false → loaded = false → s.plant.roll? h = some r →
          idle h → s.plant.inTask h = false → ends fun q => q.roll? h = none ∧
            q.bus = auto.sendEvent (.rollLost (r.num.getD 0) (.arm n m)) ∧ offArm q n m a))) ∧
    (∀ n, s.Fires (.stopTag x) (.gone c) t → k.pos = some (.stop x) → k.state = .running ∨ k.state = .held →
      s.plant.stopSec x = some n → k.held.head? = some n → k.boundFor x = false →
      let gone (y : Stop) : Stop :=
        if y.cart = some c then { y with cart := none, claim := if y.claim = some c then none else y.claim } else y
      let away (y : Cart) : Cart :=
        { y with pos := some (.sec n)
                 transit := if y.state = .running then some (s.plant.clock.ms + 20000#32) else y.transit }
      exec (.stopTagGone x c) s = .next ({ t with plant := (
        ((t.plant.modSection n fun y => { y with state := .occupied c }).modStop x gone).modCart c away) }).settle)

/-- A leg to a stop not configured, claimed by another cart or another cart's PARK stop, or on a lost module is refused, and any
leg of a cart in FAULT or MANUAL, or PARKED or IDLE on a lost module (R74). An accepted one claims its stop: a cart standing there
is IDLE, another starts; in TRANSFER it is queued, in place of one queued before (R81). Of a STARTING, RUNNING or HELD cart it
replaces the leg (also from the very stop of the new leg: the model's choice, log 60): kept while the cart turns in at the old
stop, else, also for one that goes round past it (the model's choice, log 51), the old claim and point are given up and the
sections beyond the new turn-in freed (R77). A cancel of a cart not departed leaves it at its stop with nothing held, in TRANSFER
takes the queued leg, and gives a departed one, also one RUNNING not reported gone (the model's choice, log 27), its park leg
(R75). A claim given up is then that of the cart standing there (R64). A cart with no task, nothing pending, no unrecorded roll
and at no stop of a lost module is free when PARKED or IDLE, or on its way on its park leg or a leg of a task it no longer holds,
so after every cancel on a task's leg (R73, R102, R103; also with the park leg only kept or refused: log 53). START_WAIT_EXPIRY
turns off the warning of the stop where the wait began (the model's choice, log 63); the level decides between RUNNING and HELD.
TRANSIT_EXPIRY of a RUNNING cart and TRANSFER_TIMEOUT of one in TRANSFER make it FAULT: no legs and timers, its sections, load and
position kept, its stop's transfer output off, CART_FAULT sent. Its task fails without TASK_FAILED and leaves the queue (R103;
with nothing pending): a feed task's STAND claim is released, a roll on the cart waits there, a STOW or REJECT whose roll is still
at its stop is asked again (R104). A timer not running, not run out, or of another state does nothing but let the plant settle
(log 2). -/
def Obligations.CartTimersExpire : Prop :=
  ∀ (s : State) (c : Nat) (k : Cart), s.plant.cart? c = some k →
    let now : Ticks := s.plant.clock.ms
    let freed (q : Plant) (l : List Nat) : Prop := ∀ n ∈ l, ∀ y, s.plant.section? n = some y → y.state.holder = some c →
      (q.section? n).map (·.state) = some .free
    let claimed (q : Plant) (x : Nat) (z : Stop) : Prop := q.stop? x = some { z with claim := some c }
    let warned (x : Nat) : Prop := k.startsFrom = some x ∨ (k.startsFrom = none ∧ k.pos = some (.stop x))
    let givenUp (q : Plant) (l : Option Leg) (but : Nat → Prop) : Prop := ∀ o z, l = some o → ¬but o.stop →
      s.plant.stop? o.stop = some z → z.claim = some c → (q.stop? o.stop).map (·.claim) = some z.cart
    (∀ y,
      let answer := s.plant.legRefusal k y
      (k.state = .fault ∨ k.state = .manual → answer = some .cartUnavailable) ∧
      (k.state ≠ .fault → k.state ≠ .manual →
        (s.plant.stop? y = none ∨ s.plant.stopCfg y = none → answer = some .noStop) ∧
        (∀ z cfg, s.plant.stop? y = some z → s.plant.stopCfg y = some cfg →
          let taken : Prop := (z.claim ≠ none ∧ z.claim ≠ some c) ∨ (cfg.kind = .park ∧ cfg.extra ≠ c)
          let lost : Prop := s.plant.stopLost y = true ∨
            ∃ x, k.pos = some (.stop x) ∧ (k.state = .parked ∨ k.state = .idle) ∧ s.plant.stopLost x = true
          (answer = none ∧ ¬taken ∧ ¬lost) ∨ (answer = some .stopTaken ∧ taken) ∨ (answer = some .stopLost ∧ lost)))) ∧
    (∀ g : Leg, s.plant.legRefusal k g.stop ≠ none → s.plant.giveLeg c g = (s.plant, false)) ∧
    (∀ (g : Leg) (z : Stop), s.plant.legRefusal k g.stop = none → s.plant.stop? g.stop = some z →
      ∃ q, s.plant.giveLeg c g = (q, true) ∧
      (k.state = .parked ∨ k.state = .idle →
        (k.pos = some (.stop g.stop) → q.cart? c = some { k with state := .idle, leg := none } ∧
          q.traffic.stops = s.plant.traffic.stops) ∧
        (k.pos ≠ some (.stop g.stop) → q.cart? c = some { k with state := .starting, leg := some g } ∧
          claimed q g.stop z)) ∧
      (k.state = .transfer → q.cart? c = some { k with queued := some g } ∧ claimed q g.stop z ∧
        givenUp q k.queued (· = g.stop)) ∧
      (k.state = .starting ∨ k.state = .running ∨ k.state = .held →
        (k.leg = none → q.cart? c = some { k with leg := some g } ∧ claimed q g.stop z) ∧
        (∀ o, k.leg = some o → o.stop = g.stop → q.cart? c = some { k with leg := some g, queued := none } ∧
          givenUp q k.queued (· = g.stop)) ∧
        (∀ o, k.leg = some o → o.stop ≠ g.stop → s.plant.turningIn k o.stop = true →
          q.cart? c = some { k with queued := some g } ∧ claimed q g.stop z ∧
          ((∀ w, k.queued = some w → w.stop ≠ o.stop) → q.stop? o.stop = s.plant.stop? o.stop) ∧
          givenUp q k.queued (· = g.stop)) ∧
        (∀ o d, k.leg = some o → o.stop ≠ g.stop → s.plant.turningIn k o.stop = false → s.plant.stopSec g.stop = some d →
          (q.stop? g.stop).map (·.claim) = some (some c) ∧ givenUp q k.leg (fun _ => False) ∧
          (∀ w, s.plant.stop? o.stop = some w → w.point = .arrive c → s.plant.stopLost o.stop = false →
            (q.stop? o.stop).map (·.point) = some .ring) ∧
          (∀ a b, k.held = a ++ d :: b → a ≠ [] → d ∉ a →
            q.cart? c = some { k with leg := some g, queued := none, held := a ++ [d] } ∧ freed q b ∧
            (s.plant.stopLost g.stop = false → (q.stop? g.stop).map (·.point) = some (.arrive c))) ∧
          ((∀ a b, k.held = a ++ d :: b → a = []) → q.cart? c = some { k with leg := some g, queued := none })))) ∧
    (let q := s.plant.cancel c
     (k.state = .starting ∨ (k.state = .held ∧ ∃ x, k.pos = some (.stop x)) →
       q.cart? c = some { k with
         leg := none, queued := none, held := [], startWait := none, startsFrom := none, transit := none
         state := match k.pos with
           | some (.stop x) => if s.plant.parkStop c = some x ∧ k.task = none then .parked else .idle
           | _ => .idle } ∧
       freed q k.held ∧ givenUp q k.leg (fun _ => False) ∧
       ∀ x z, warned x → s.plant.stop? x = some z → (q.stop? x).map (·.warning) = some false) ∧
     (k.state = .transfer → q.cart? c = some { k with queued := none } ∧ givenUp q k.queued (fun _ => False)) ∧
     (k.state = .running ∨ (k.state = .held ∧ ∀ x, k.pos ≠ some (.stop x)) → q = match s.plant.parkStop c with
       | some x => (s.plant.giveLeg c { stop := x, task := none }).1
       | none => s.plant) ∧
     (k.state = .parked ∨ k.state = .idle ∨ k.state = .fault ∨ k.state = .manual → q = s.plant) ∧
     (k.state = .starting ∨ k.state = .running ∨ k.state = .held → k.task = none → k.pending = none → k.noRecord = false →
       (∀ x, k.pos = some (.stop x) → s.plant.stopLost x = false) → (∃ l, k.leg = some l ∧ l.task ≠ none) →
       (∀ l, k.queued = some l → l.task ≠ none) → ∃ k', q.cart? c = some k' ∧ q.isFree k' = true)) ∧
    (s.plant.isFree k = true ↔ k.task = none ∧ k.pending = none ∧ k.noRecord = false ∧
      (∀ x, k.pos = some (.stop x) → s.plant.stopLost x = false) ∧
      (k.state = .parked ∨ k.state = .idle ∨ ((k.state = .starting ∨ k.state = .running ∨ k.state = .held) ∧
        ∃ l, (k.queued = some l ∨ (k.queued = none ∧ k.leg = some l)) ∧
          (s.plant.parkStop c = some l.stop ∨ l.task ≠ none)))) ∧
    let inFault (cause : FaultCause) : Cart :=
      { k with state := .fault, leg := none, queued := none, startWait := none, startsFrom := none, transit := none, transfer := none,
               lastFault := some cause }
    let faulted (cause : FaultCause) (q : Plant) : Prop :=
      q.cart? c = some (inFault cause) ∧
      q.bus = s.plant.bus.sendEvent (.cartFault c cause k.pos) ∧ q.rolls = s.plant.rolls ∧ q.sched = s.plant.sched ∧
      q.traffic.sections = s.plant.traffic.sections ∧
      (∀ x y, k.pos = some (.stop x) → s.plant.stop? x = some y → y.cart = some c →
        ∃ z, q.stop? x = some z ∧ z.transfer = none ∧ z.cart = y.cart ∧ z.claim = y.claim)
    let faults (i : Instr) (cause : FaultCause) : Prop :=
      (k.task = none → ∃ q, exec i s = .next ({ s with plant := q }).settle ∧ faulted cause q) ∧
      (∀ n o r, k.task = some n → s.plant.task? n = some o → o.cart = some c → s.plant.roll? o.roll = some r →
        (∀ y ∈ s.plant.traffic.stops, y.pending = none) → (∀ y ∈ s.plant.traffic.carts, y.pending = none) →
        (∀ y ∈ s.plant.splice.stands, y.pendingUnload = none) →
        let left (q : Plant) : Prop := q.cart? c = some { inFault cause with task := none } ∧
          q.bus = s.plant.bus.sendEvent (.cartFault c cause k.pos)
        (∀ x, r.state = .placed → r.loc = .stop x → o.kind = .feedPrep ∨ (o.kind = .feedMount ∧ r.prepared = false) →
          ∃ q, exec i s = .next ({ s with plant := q }).settle ∧ left q ∧
            q.sched.queue.map (·.num) = (s.plant.sched.queue.map (·.num)).filter (· != n) ∧
            q.roll? o.roll = some { r with claim := match r.claim with
              | .stand _ => .none
              | y => y }) ∧
        (r.state = .carried → r.loc = .cart c → o.kind = .stow ∨ o.kind = .reject ∨ o.kind = .unload →
          ∃ q, exec i s = .next ({ s with plant := q }).settle ∧ left q ∧
            q.sched.queue.map (·.num) = (s.plant.sched.queue.map (·.num)).filter (· != n) ∧ q.rolls = s.plant.rolls) ∧
        (∀ x y, r.state = .placed → r.loc = .stop x → s.plant.stop? x = some y → y.roll = some o.roll →
          o.kind = .stow ∨ o.kind = .reject → s.plant.sched.queue.length ≤ 16 →
          (∀ b ∈ s.plant.sched.queue, b.roll = o.roll → b.num = n) →
          ∃ q, exec i s = .next ({ s with plant := q }).settle ∧ left q ∧ q.rolls = s.plant.rolls ∧
            ∃ b ∈ q.sched.queue, b.kind = o.kind ∧ b.roll = o.roll ∧ b.src = .stop x ∧ b.state = .waiting ∧
              b.cart = none ∧ b.suspensions = 0))
    (∀ T, k.state = .starting → k.startWait = some T → reached now T = true →
      exec (.startWaitExpiry c) s = .next (s.modPlant fun p =>
        (match k.startsFrom, k.pos with
          | some x, _ | none, some (.stop x) => p.modStop x fun y => { y with warning := false }
          | _, _ => p).modCart c fun y => { y with state := .held, startWait := none, startsFrom := none }).settle) ∧
    (∀ T, k.state = .running → k.transit = some T → reached now T = true → faults (.transitExpiry c) .transit) ∧
    (∀ T, k.state = .transfer → k.transfer = some T → reached now T = true → faults (.transferTimeout c) .transfer) ∧
    (k.state ≠ .starting ∨ (∀ T, k.startWait = some T → reached now T = false) →
      exec (.startWaitExpiry c) s = .next s.settle) ∧
    (k.state ≠ .running ∨ (∀ T, k.transit = some T → reached now T = false) →
      exec (.transitExpiry c) s = .next s.settle) ∧
    (k.state ≠ .transfer ∨ (∀ T, k.transfer = some T → reached now T = false) →
      exec (.transferTimeout c) s = .next s.settle)

/-- A roll sensed at an empty slot or PREP stop gets an unknown record PLACED there, at a DOCK, IN or OUT stop with a STOW asked too
(R99); one that a DOCK or IN stop expects is PLACED, and at IN its shipment lands: LANDED, and for a claimed one its FEED_PREP, the
call freed (R47). A roll that leaves an OUT stop on its running conveyor (not with its module lost, log 36) is SHIPPED (R6, R60).
One that leaves otherwise loses its record, with ROLL_LOST, its holds and its shipment (GONE of a CARRYING one), whatever its claim is
(R57, R58), the pending item of the stop, and its task (TASK_FAILED ROLL_GONE, R20, R103; with nothing pending elsewhere). A transfer is accepted of an IDLE cart at the stop when sensor and load flag fit (R79) and completes
when both show the new state (R80): the record CARRIED or PLACED (R4), the task CARRYING or finished, the cart on its queued leg or
IDLE (R81); set down at SCRAP the record is deleted (R96), a prepared one at PREP for a stand has its FEED_MOUNT asked (R36), a
shipment at OUT sends READY: its hold freed, the link ASKING for 2 s (R59). A prep confirm marks the roll prepared and asks for its
FEED_MOUNT or, without a stand's claim, its STOW; a reject marks it rejected, releases a stand's claim and asks for its REJECT, in
place of a FEED_MOUNT or STOW still waiting. With no record there, or one being lifted onto a cart (PREP_REFUSED), the input is
dropped; so is a confirm of a roll rejected or named by a FEED_MOUNT or STOW, and a reject of a roll rejected with its REJECT queued
(R35, R37). A finished task leaves the queue before R36 and R59 act on its roll (the model's choice, log 26), and the arm a transfer
names is forgotten with the transfer (the model's choice, log 19). A shipment that is ASKING, CONVEYING or IN_TRANSIT is not ended with
a roll whose SHIP claim is no longer there (the model's choice, log 59), and what an IDLE shipment record holds is the model's choice
too (log 57). -/
def Obligations.RollsAtStopsAndPrepButtons : Prop :=
  ∀ (s : State) (x : Nat) (st : Stop) (kind : StopKind), s.plant.stop? x = some st → s.plant.stopKind x = some kind →
    let asked (q : Plant) (h : Handle) (k : TaskKind) : Prop :=
      ∃ t ∈ q.sched.queue, t.kind = k ∧ t.roll = h ∧ t.src = .stop x ∧ t.state = .waiting
    let senses (t : State) (on : Bool) (P : Plant → Prop) : Prop :=
      ∃ q, exec (.rollSensorChange x on) s = .next ({ t with plant := q }).settle ∧ P q
    let bare : Prop := (∀ y ∈ s.plant.traffic.stops, y.pending = none) ∧ (∀ y ∈ s.plant.traffic.carts, y.pending = none) ∧
      ∀ y ∈ s.plant.splice.stands, y.pendingUnload = none
    let idle (h : Handle) : Prop := ∀ l ∈ s.plant.supply.links, l.out.roll = some h → l.out.state ≠ .carrying
    let carried (h : Handle) (l : LinkRec) : Prop := s.plant.link? l.num = some l ∧ l.out.state = .carrying ∧
      l.out.roll = some h ∧ ∀ z ∈ s.plant.supply.links, z.out.state = .carrying → z.out.roll = some h → z = l
    (∀ t h q, s.Fires (.sensor x) (.level true) t → s.plant.sensorHeld x = false → st.roll = none → st.expected = none →
      t.plant.createRoll (unknownRoll t.plant.core .placed (.stop x)) = some (h, q) →
      (kind = .slot ∨ kind = .prep → senses t true fun q' => q'.rolls = q.rolls ∧
        (q'.stop? x).map (·.roll) = some (some h)) ∧
      (kind = .dock ∨ kind = .inn ∨ kind = .out → s.plant.slotBound x = false → s.plant.inTask h = false →
        s.plant.sched.queue.length < 16 → senses t true fun q' => q'.rolls = q.rolls ∧ q'.bus = s.plant.bus ∧
          (q'.stop? x).map (·.roll) = some (some h) ∧ asked q' h .stow)) ∧
    (∀ t h r, s.Fires (.sensor x) (.level true) t → kind = .dock ∨ kind = .inn → s.plant.sensorHeld x = false →
      st.roll = none → st.expected = some h → s.plant.roll? h = some r → r.state = .expected → s.plant.inTask h = false →
      s.plant.sched.queue.length < 16 →
      let here (q : Plant) : Prop := q.roll? h = some { r with state := .placed, loc := .stop x } ∧
        (q.stop? x).map (fun y => (y.roll, y.expected)) = some (some h, none)
      (s.plant.expectingLink h = none → r.claim = .none → senses t true fun q =>
        here q ∧ q.bus = s.plant.bus ∧ asked q h .stow) ∧
      (∀ l n, s.plant.expectingLink h = some l → l.inb.claimed = true → r.claim = .stand n → senses t true fun q =>
        here q ∧ q.bus = s.plant.bus.send l.inb.giver (.landed l.inb.callNo (r.num.getD 0)) ∧ asked q h .feedPrep ∧
        (∀ k ∈ q.supply.links, k.num = l.num → k.inb = Inbound.idle) ∧
        q.supply.calls = s.plant.supply.calls.filter (·.stand != n)) ∧
      (∀ l, s.plant.expectingLink h = some l → l.inb.claimed = false → senses t true fun q =>
        here q ∧ q.bus = s.plant.bus.send l.inb.giver (.landed l.inb.callNo (r.num.getD 0)) ∧ asked q h .stow ∧
        q.supply.calls = s.plant.supply.calls)) ∧
    (∀ t l h r, s.Fires (.sensor x) (.level false) t → kind ≠ .stand → s.plant.sensorHeld x = false →
      s.plant.conveyingAt x = some l → l.out.state = .conveying → l.out.roll = some h → st.roll = some h →
      s.plant.roll? h = some r → r.state = .placed → senses t false fun q => q.bus = s.plant.bus ∧
        q.roll? h = some { r with state := .shipped, loc := .link l.num } ∧
        (q.stop? x).map (fun y => (y.roll, y.pending)) = some (none, none) ∧
        q.supply.links = updateIf (fun k => k.num == l.num) (fun k => { k with out := { k.out with state := .inTransit } })
          s.plant.supply.links ∧ q.sched = s.plant.sched) ∧
    (∀ t h r, s.Fires (.sensor x) (.level false) t → kind ≠ .stand → s.plant.sensorHeld x = false →
      s.plant.conveyingAt x = none → st.roll = some h → s.plant.roll? h = some r →
      let lost (b : BusPort) (q : Plant) : Prop := q.roll? h = none ∧
        (q.stop? x).map (fun y => (y.roll, y.pending)) = some (none, none) ∧
        q.bus = b.sendEvent (.rollLost (r.num.getD 0) (.stop x))
      (s.plant.inTask h = false →
        (idle h → senses t false fun q => lost s.plant.bus q ∧
          q.supply = { s.plant.supply with
            holds := s.plant.supply.holds.filter (·.roll != h)
            links := match r.claim with
              | .ship n => updateIf (fun z => z.num == n && (s.plant.link? n).bind (·.out.roll) == some h)
                  (fun z => { z with out := Outbound.idle }) s.plant.supply.links
              | _ => s.plant.supply.links }) ∧
        (∀ l, carried h l → senses t false fun q =>
          lost (s.plant.bus.send l.out.caller (.gone l.out.callNo (r.num.getD 0))) q ∧
            q.supply.holds = s.plant.supply.holds.filter (·.roll != h) ∧ q.supply.calls = s.plant.supply.calls ∧
            ∀ z ∈ q.supply.links, z.num = l.num → z.out = Outbound.idle)) ∧
      (∀ o, s.plant.sched.queue.find? (·.roll == h) = some o → o.kind ≠ .ship → o.cart = none →
        s.plant.task? o.num = some o → idle h → bare →
        senses t false fun q => lost (s.plant.bus.sendEvent (.taskFailed o.num o.kind (r.num.getD 0) 3)) q ∧
          q.sched.queue.map (·.num) = (s.plant.sched.queue.map (·.num)).filter (· != o.num))) ∧
    (∀ c k dir arm, s.plant.cart? c = some k → kind ≠ .stand →
      let fits : Prop := k.state = .idle ∧ k.pos = some (.stop x) ∧ s.plant.stopLost x = false ∧
        match dir with
        | .toCart => s.plant.sensor x = true ∧ k.loadFlag = false
        | .toStop => s.plant.sensor x = false ∧ k.loadFlag = true
      (fits → s.plant.requestTransfer c x dir arm =
        ((s.plant.modStop x fun y => { y with transfer := some dir }).modCart c fun y =>
          { y with state := .transfer, arm := arm, transfer := some (s.plant.clock.ms + 30000#32) }, true)) ∧
      (¬fits → s.plant.requestTransfer c x dir arm = (s.plant, false))) ∧
    (∀ t c k h r, s.Fires (.sensor x) (.level false) t → kind ≠ .stand → st.transfer = some .toCart → st.cart = some c →
      s.plant.cart? c = some k → k.state = .transfer →
      (k.loadFlag = false → exec (.rollSensorChange x false) s = .next t.settle) ∧
      (k.loadFlag = true → st.roll = some h → s.plant.roll? h = some r → r.state = .placed → senses t false fun q =>
        q.bus = s.plant.bus ∧ q.roll? h = some { r with state := .carried, loc := .cart c } ∧
        (q.stop? x).map (fun y => (y.roll, y.transfer, y.pending)) = some (none, none, none) ∧
        (∀ n o, k.task = some n → s.plant.task? n = some o → o.state = .loading →
          q.task? n = some { o with state := .carrying }) ∧
        (k.queued = none → q.cart? c = some { k with
          state := .idle, load := some h, transfer := none, arm := none }) ∧
        (∀ g, k.queued = some g → k.pos = some (.stop x) → g.stop ≠ x → q.cart? c = some { k with
          state := .starting, load := some h, transfer := none, arm := none, leg := some g, queued := none }))) ∧
    (∀ t c k h r, s.Fires (.sensor x) (.level true) t → kind ≠ .stand →
      st.transfer = some .toStop → st.cart = some c → s.plant.cart? c = some k → k.state = .transfer →
      (k.loadFlag = true → exec (.rollSensorChange x true) s = .next t.settle) ∧
      (k.loadFlag = false → k.load = some h → k.queued = none → s.plant.roll? h = some r → r.state = .carried →
        t.plant.sensor x = true → bare → (∀ o ∈ s.plant.sched.queue, o.roll = h → k.task = some o.num) →
        let emptied (q : Plant) : Prop := (q.stop? x).map (·.transfer) = some none ∧ q.cart? c = some { k with
          state := .idle, load := none, pending := none, task := none, transfer := none, arm := none }
        let finished (q : Plant) : Prop := ∀ n, k.task = some n →
          q.sched.queue.map (·.num) = (s.plant.sched.queue.map (·.num)).filter (· != n)
        let placed (q : Plant) : Prop := q.roll? h = some { r with state := .placed, loc := .stop x } ∧
          (q.stop? x).map (·.roll) = some (some h)
        (kind ≠ .scrap → (kind = .prep → r.prepared = false ∨ ∀ n, r.claim ≠ .stand n) → s.plant.carryingTo x h = none →
          senses t true fun q => emptied q ∧ finished q ∧ placed q ∧ q.bus = s.plant.bus) ∧
        (kind = .prep → r.prepared = true → (∃ n, r.claim = .stand n) → s.plant.carryingTo x h = none →
          (s.plant.sched.queue.filter fun o => k.task != some o.num).length < 16 →
          senses t true fun q => emptied q ∧ placed q ∧ q.bus = s.plant.bus ∧ asked q h .feedMount) ∧
        (∀ l, kind = .out → s.plant.carryingTo x h = some l → senses t true fun q => emptied q ∧ finished q ∧ placed q ∧
          q.bus = s.plant.bus.send l.out.caller (.shipReady l.out.callNo r.snapshot) ∧
          q.supply = { s.plant.supply with
            holds := s.plant.supply.holds.filter (·.roll != h)
            links := updateIf (fun z => z.num == l.num) (fun z => { z with out := { z.out with
              state := .asking, coming := none, accept := some (s.plant.clock.ms + 2000#32) } }) s.plant.supply.links }) ∧
        (kind = .scrap → st.roll = none → idle h → senses t true fun q =>
          emptied q ∧ finished q ∧ q.roll? h = none ∧ q.bus = s.plant.bus))) ∧
    (∀ h r, kind = .prep → st.roll = some h → s.plant.roll? h = some r → r.state = .placed →
      st.transfer ≠ some .toCart → s.plant.inTask h = false → s.plant.sched.queue.length < 16 →
      (s.Button (.confirm x) → r.rejected = false → ∀ k,
        (r.claim = .none ∧ k = TaskKind.stow) ∨ (∃ n, r.claim = .stand n ∧ k = TaskKind.feedMount) →
        ∃ q, exec (.prepConfirm x) s = .next ({ s with plant := q }).settle ∧
          q.rolls = (s.plant.modRoll h fun r => { r with prepared := true }).rolls ∧ q.bus = s.plant.bus ∧
          asked q h k) ∧
      (s.Button (.reject x) →
        ∃ q, exec (.prepReject x) s = .next ({ s with plant := q }).settle ∧
          q.rolls = (s.plant.modRoll h fun r => { r with
            rejected := true
            claim := match r.claim with
              | .stand _ => .none
              | c => c }).rolls ∧ q.bus = s.plant.bus ∧ asked q h .reject)) ∧
    (let dropped (i : Instr) (p : Plant) : Prop := exec i s = .next ({ s with plant := p }).settle
     let named (h : Handle) (kinds : List TaskKind) : Prop := ∃ o ∈ s.plant.sched.queue, o.roll = h ∧ o.kind ∈ kinds
     (s.Button (.confirm x) → (st.roll = none → dropped (.prepConfirm x) s.plant) ∧
       ∀ h r, kind = .prep → st.roll = some h → s.plant.roll? h = some r →
         (st.transfer = some .toCart → dropped (.prepConfirm x) (s.plant.event (.prepRefused x 1))) ∧
         (st.transfer ≠ some .toCart → named h [.feedMount, .stow] ∨ r.rejected = true →
           dropped (.prepConfirm x) s.plant)) ∧
     (s.Button (.reject x) → (st.roll = none → dropped (.prepReject x) s.plant) ∧
       ∀ h r, kind = .prep → st.roll = some h → s.plant.roll? h = some r →
         (st.transfer = some .toCart → dropped (.prepReject x) (s.plant.event (.prepRefused x 2))) ∧
         (st.transfer ≠ some .toCart → r.rejected = true → named h [.reject] → dropped (.prepReject x) s.plant) ∧
         (∀ o, st.transfer ≠ some .toCart → s.plant.sched.queue.find? (·.roll == h) = some o →
           o.kind = .feedMount ∨ o.kind = .stow → o.state = .waiting → o.cart = none → s.plant.task? o.num = some o →
           (∀ z ∈ s.plant.sched.queue, z.roll = h → z.num = o.num) → bare → s.plant.sched.queue.length ≤ 16 →
           r.state = .placed → ∃ q, exec (.prepReject x) s = .next ({ s with plant := q }).settle ∧
             (∃ r', q.roll? h = some r' ∧ r'.rejected = true ∧ ∀ n, r'.claim ≠ .stand n) ∧ q.bus = s.plant.bus ∧
             asked q h .reject ∧ ∀ z ∈ q.sched.queue, z.roll = h → z.kind = .reject)))

/-! ### Stands, the splice and web measurement (06, 07) -/

/-- A ready confirm: on a RUNNING stand a MOUNTED arm becomes READY, its brake duty 1000; on an IDLE one it becomes RUN, the
stand's run arm, its estimator SEEDING and its brake by the tension formula (R127), the stand's marks gone and its folder roll the
arm's (R164), a STAND claim on the stand released (R9); on an arm in another state it is dropped. An arm whose roll has no record
asks nothing of the roll table. The scheduler and the traffic controller settle after each (log 7). -/
def Obligations.ReadyConfirmsAreTaken : Prop :=
  ∀ (s : State) (n : Nat) (m : Arm) (st : Stand), s.Button (.ready n m) → s.plant.image.isLine = true →
    s.plant.stand? n = some st →
    let a := st.arm m
    let record (f : Roll → Roll) (p : Plant) : Plant :=
      match a.roll with
      | .record h => p.modRoll h fun r => if r.state = .mounted then f r else r
      | _ => p
    (a.state = .mounted → st.runArm.isSome = true → exec (.readyConfirm n m) s = .next ((s.modPlant fun p =>
      (record (fun r => { r with state := .ready }) p).modArm n m fun a =>
        { a with state := .ready, brake := 1000, drive := 0 }).settle)) ∧
    (a.state = .mounted → st.runArm = none →
      let folders : WasteUnit := { s.press.waste with
        stands := updateIf (fun w => w.num == n) (fun w => { w with marks := [], folder := a.roll }) s.press.waste.stands }
      ∃ q st', exec (.readyConfirm n m) s =
          .next ({ s with plant := q, press := { s.press with waste := folders } }).settle ∧
        q.rolls = (record (fun r => { r with
          state := .run, claim := if r.claim = .stand n then .none else r.claim }) s.plant).rolls ∧
        q.bus = s.plant.bus ∧ q.traffic = s.plant.traffic ∧ q.sched = s.plant.sched ∧
        q.stand? n = some st' ∧ st'.runArm = some m ∧ st'.phase = st.phase ∧ st'.arm m.other = st.arm m.other ∧
        (st'.arm m).state = .run ∧ (st'.arm m).roll = a.roll ∧ (st'.arm m).drive = 0 ∧
        (st'.arm m).est = { a.est with mode := .seeding, dFilt := none, sq := none, lastCap := none, rejects := 0,
                                       suspect := false } ∧
        (∀ h r d g c, a.roll = .record h → s.plant.roll? h = some r → r.diam = some d →
          s.plant.gradeCfg (r.grade.getD 0) = some g → s.plant.standCfg n = some c → 0 < c.torqueMax →
          (st'.arm m).brake = min 1000 ((g.tension * d + 10 * c.torqueMax) / (20 * c.torqueMax)))) ∧
    (a.state ≠ .mounted → exec (.readyConfirm n m) s = .next s.settle)

/-- ARM_LOADED_CHANGE with no transfer and no cart in FAULT or MANUAL at the STAND stop: a roll on an EMPTY arm is MOUNTED with an
unknown record, or unrecorded with TABLE_FULL when the table is full. An arm whose roll leaves is EMPTY, both duties 0 (what else
its estimator holds stays: the model's choice, log 73), and the record is deleted with ROLL_LOST, and with it, whatever its claim,
its holds and a CARRYING shipment (GONE, R57, R58), a pending UNLOAD of the arm and its task (TASK_FAILED ROLL_GONE);
SPLICE_FAILED then names no arm where the stand is left IDLE (log 54); a MOUNTED, READY or BUTT arm leaves the stand as it was,
the RUN arm and the SPIN arm act by the phase (R145). In a transfer the arm becomes MOUNTED, or the butt CARRIED and partial and
its arm EMPTY, when both indications show it (R4, R5, R80), and the cart names no arm any more (the model's choice, log 19). A
shipment in a later state is not ended with a roll that has no SHIP claim any more, and what an IDLE shipment record holds is the
model's choice (logs 59, 57). -/
def Obligations.RollsComeOntoAndLeaveArms : Prop :=
  ∀ (s t : State) (n : Nat) (m : Arm) (st : Stand) (c : StandCfg), s.plant.image.isLine = true →
    s.plant.stand? n = some st → s.plant.standCfg n = some c →
    let a := st.arm m
    let mounted (p : Plant) (r : RollRef) : Plant := p.modArm n m fun a =>
      { a with state := .mounted, roll := r, brake := 1000, drive := 0 }
    let emptied : ArmRec := { a with
      state := .empty, roll := .none, brake := 0, drive := 0, lastPulse := none, stopped := false
      est := { a.est with mode := .none, dFilt := none } }
    let leaves (P : Plant → Stand → Press → Prop) : Prop :=
      ∃ q st' p, exec (.armLoadedChange n m false) s = .next ({ t with plant := q, press := p }).settle ∧
        q.stand? n = some st' ∧ st'.arm m = emptied ∧ P q st' p
    let failed : Press := if s.inUse n = true ∧ s.plant.pressRun = true then
      { t.press with waste := { t.press.waste with latch := true } } else t.press
    let fired (st' : Stand) : Prop := st'.knifeEnd = some (s.plant.clock.ms + BitVec.ofNat 32 c.pulseWidth)
    let bare : Prop := (∀ y ∈ s.plant.traffic.stops, y.pending = none) ∧ (∀ y ∈ s.plant.traffic.carts, y.pending = none) ∧
      ∀ y ∈ s.plant.splice.stands, y.pendingUnload = none
    (s.Fires (.armLoaded n m) (.level true) t → s.plant.sensorHeld c.standStop = false → a.state = .empty →
      (∀ h q, t.plant.createRoll (unknownRoll t.plant.core .mounted (.arm n m)) = some (h, q) →
        exec (.armLoadedChange n m true) s = .next ({ t with plant := mounted q (.record h) }).settle) ∧
      ((∀ y ∈ s.plant.rolls, y.roll.isSome = true) → exec (.armLoadedChange n m true) s = .next
        ({ t with plant := mounted (t.plant.event (.tableFull 0 (.arm n m))) .unrecorded }).settle)) ∧
    (s.Fires (.armLoaded n m) (.level false) t → s.plant.sensorHeld c.standStop = false → a.roll = .unrecorded →
      a.state = .mounted ∨ a.state = .ready ∨ a.state = .butt → leaves fun q st' p =>
        q.bus = s.plant.bus ∧ q.rolls = s.plant.rolls ∧ st'.phase = st.phase ∧ st'.runArm = st.runArm ∧ p = t.press) ∧
    (∀ h r, s.Fires (.armLoaded n m) (.level false) t → s.plant.sensorHeld c.standStop = false → a.roll = .record h →
      s.plant.roll? h = some r →
      let lost (b : BusPort) : BusPort := b.sendEvent (.rollLost (r.num.getD 0) (.arm n m))
      let idle : Prop := ∀ l ∈ s.plant.supply.links, l.out.roll = some h → l.out.state ≠ .carrying
      (a.state = .mounted ∨ a.state = .ready ∨ a.state = .butt →
        let quiet (b : BusPort) (u : Supply → Prop) : Prop := leaves fun q st' p => q.roll? h = none ∧ q.bus = lost b ∧
          st'.phase = st.phase ∧ st'.runArm = st.runArm ∧ p = t.press ∧
          st'.pendingUnload = (if st.pendingUnload = some m then none else st.pendingUnload) ∧ u q.supply
        (s.plant.inTask h = false →
          (idle → quiet s.plant.bus fun u => u = { s.plant.supply with
            holds := s.plant.supply.holds.filter (·.roll != h)
            links := match r.claim with
              | .ship i => updateIf (fun z => z.num == i && (s.plant.link? i).bind (·.out.roll) == some h)
                  (fun z => { z with out := Outbound.idle }) s.plant.supply.links
              | _ => s.plant.supply.links }) ∧
          (∀ l, s.plant.link? l.num = some l → l.out.state = .carrying → l.out.roll = some h →
            (∀ z ∈ s.plant.supply.links, z.out.state = .carrying → z.out.roll = some h → z = l) →
            quiet (s.plant.bus.send l.out.caller (.gone l.out.callNo (r.num.getD 0))) fun u =>
              u.holds = s.plant.supply.holds.filter (·.roll != h) ∧ u.calls = s.plant.supply.calls ∧
              ∀ z ∈ u.links, z.num = l.num → z.out = Outbound.idle)) ∧
        (∀ o, s.plant.sched.queue.find? (·.roll == h) = some o → o.kind ≠ .ship → o.cart = none →
          s.plant.task? o.num = some o → idle → bare →
          leaves fun q _ _ => q.roll? h = none ∧
            q.bus = lost (s.plant.bus.sendEvent (.taskFailed o.num o.kind (r.num.getD 0) 3)) ∧
            q.sched.queue.map (·.num) = (s.plant.sched.queue.map (·.num)).filter (· != o.num))) ∧
      (a.state = .run → st.runArm = some m → s.plant.inTask h = false → idle →
        (st.phase = .none ∨ st.phase = .decel → leaves fun q st' p => q.roll? h = none ∧ q.bus = lost s.plant.bus ∧
          st'.runArm = none ∧ st'.runOut = false ∧ st'.phase = st.phase ∧ p = t.press) ∧
        (st.phase = .verify → leaves fun q st' p => q.roll? h = none ∧
          q.bus = (lost s.plant.bus).sendEvent (.spliceFailed n none) ∧ st'.runArm = none ∧ st'.phase = .none ∧
          st'.pastePos = none ∧ st'.verifyStart = none ∧ p = failed) ∧
        (st.phase = .accel ∨ st.phase = .matched ∨ st.phase = .armed → leaves fun q st' p => q.roll? h = none ∧
          q.bus = (lost s.plant.bus).sendEvent (.spliceAborted n 5) ∧ st'.runArm = none ∧ st'.phase = .decel ∧
          st'.matchedCount = 0 ∧ st'.fireTime = none ∧ st'.spliceNow = false ∧ p = t.press ∧
          ((st.arm m.other).state = .spin → (st'.arm m.other).state = .spin ∧ (st'.arm m.other).brake = 0 ∧
            (st'.arm m.other).drive = 0)) ∧
        (st.phase = .pasted → (st.arm m.other).state = .spin →
          (t.plant.webPresent n = true → leaves fun q st' p => q.roll? h = none ∧ q.bus = lost s.plant.bus ∧ fired st' ∧
            st'.runArm = some m.other ∧ (st'.arm m.other).state = .run ∧ st'.phase = .verify ∧ p = t.press) ∧
          (t.plant.webPresent n = false → leaves fun q st' p => q.roll? h = none ∧ fired st' ∧
            q.bus = (lost s.plant.bus).sendEvent (.spliceFailed n (some m.other)) ∧ st'.runArm = some m.other ∧
            st'.phase = .none ∧ st'.broken = true ∧ p = failed))) ∧
      (a.state = .spin → s.plant.inTask h = false → idle →
        (st.phase = .accel ∨ st.phase = .matched ∨ st.phase = .armed → leaves fun q st' p => q.roll? h = none ∧
          q.bus = (lost s.plant.bus).sendEvent (.spliceAborted n 6) ∧ st'.runArm = st.runArm ∧ st'.phase = .none ∧
          st'.fireTime = none ∧ st'.spliceNow = false ∧ p = t.press) ∧
        (st.phase = .decel → leaves fun q st' p => q.roll? h = none ∧ q.bus = lost s.plant.bus ∧
          st'.runArm = st.runArm ∧ st'.phase = .none ∧ p = t.press) ∧
        (st.phase = .pasted → st.runArm = some m.other → (st.arm m.other).state = .run → leaves fun q st' p =>
          q.roll? h = none ∧ fired st' ∧ q.bus = (lost s.plant.bus).sendEvent (.spliceFailed n none) ∧
          (st'.arm m.other).state = .butt ∧ st'.runArm = none ∧ st'.phase = .none ∧ p = failed))) ∧
    (∀ i k y, s.plant.standOfStop c.standStop = some n → s.plant.stop? c.standStop = some y → y.cart = some i →
      s.plant.cart? i = some k → k.state = .transfer → k.arm = some m →
      (s.Fires (.armLoaded n m) (.level true) t → y.transfer = some .toStop →
        (k.loadFlag = true → exec (.armLoadedChange n m true) s = .next t.settle) ∧
        (∀ h r, k.loadFlag = false → k.load = some h → k.queued = none → y.roll = none → s.plant.roll? h = some r →
          r.state = .carried → t.plant.armLoaded n m = true → bare →
          ∃ q, exec (.armLoadedChange n m true) s = .next ({ t with plant := q }).settle ∧ q.bus = s.plant.bus ∧
            q.roll? h = some { r with state := .mounted, loc := .arm n m } ∧
            q.arm? n m = some { a with state := .mounted, roll := .record h, brake := 1000, drive := 0 } ∧
            (q.stop? c.standStop).map (·.transfer) = some none ∧ q.cart? i = some { k with
              state := .idle, load := none, pending := none, task := none, transfer := none, arm := none } ∧
            (∀ o, k.task = some o →
              q.sched.queue.map (·.num) = (s.plant.sched.queue.map (·.num)).filter (· != o)))) ∧
      (s.Fires (.armLoaded n m) (.level false) t → y.transfer = some .toCart →
        (k.loadFlag = false → exec (.armLoadedChange n m false) s = .next t.settle) ∧
        (∀ h r, k.loadFlag = true → k.queued = none → a.roll = .record h → s.plant.roll? h = some r → r.state = .butt →
          ∃ q, exec (.armLoadedChange n m false) s = .next ({ t with plant := q }).settle ∧ q.bus = s.plant.bus ∧
            q.roll? h = some { r with state := .carried, loc := .cart i, part := true } ∧ q.arm? n m = some emptied ∧
            (q.stop? c.standStop).map (·.transfer) = some none ∧
            q.cart? i = some { k with state := .idle, load := some h, transfer := none, arm := none } ∧
            (∀ j o, k.task = some j → s.plant.task? j = some o → o.state = .loading →
              q.task? j = some { o with state := .carrying }))))

/-- SPLICE_NOW: in NONE, with a READY standby roll that is known and has a diameter, the web at the minimum splice speed,
the press on and no break, the stand enters ACCEL with the mark set; where any of these fails it is refused with SPLICE_REFUSED
(R133, R142). ACCEL and ARMED take the mark, MATCHED takes it and arms, later phases refuse it. A web that goes off on a stand
RUNNING and in use with the press on is a web break: in NONE, PASTED and DECEL the break alone, in ACCEL, MATCHED and ARMED with
the splice aborted (WEB_BREAK); in VERIFY it is a SPLICE_FAILED and no WEB_BREAK; on other terms the reading is noted alone. One that
comes on clears the break flag. -/
def Obligations.SpliceNowAndWebBreaks : Prop :=
  ∀ (s : State) (n : Nat) (st : Stand), s.plant.image.isLine = true → s.plant.stand? n = some st →
    let marked (f : Stand → Stand) (s : State) : State := s.modStand n fun st => { f st with spliceNow := true }
    let latched (p : Press) : Press := { p with waste := { p.waste with latch := true } }
    (s.Button (.spliceNow n) →
      (∀ o h r d c, st.phase = .none → st.runArm = some o → st.broken = false → s.plant.standCfg n = some c →
        c.minSpeed ≤ s.speed n → s.plant.pressRun = true → (st.arm o.other).state = .ready →
        (st.arm o.other).roll = .record h → s.plant.roll? h = some r → r.unknown = false → r.diam = some d →
        let spin (a : ArmRec) : ArmRec :=
          { a with state := .spin, brake := 0, lastPulse := none
                   drive := speedMatchDuty (s.speed n) (s.plant.spinDiameter a) c.rpmMax }
        s.plant.spinDiameter (st.arm o.other) = d ∧ exec (.spliceNow n) s =
          .next (marked (fun st => { st.setArm o.other spin with phase := .accel, matchedCount := 0 }) s).settle) ∧
      (st.phase = .none → st.runArm = none ∨ st.broken = true ∨ s.plant.pressRun = false ∨
          (∀ c, s.plant.standCfg n = some c → s.speed n < c.minSpeed) ∨
          (∃ o, st.runArm = some o ∧ ((st.arm o.other).state ≠ .ready ∨
            (∀ h, (st.arm o.other).roll = .record h → ∀ r, s.plant.roll? h = some r → r.unknown = true ∨ r.diam = none))) →
        exec (.spliceNow n) s = .next (s.event (.spliceRefused n .none)).settle) ∧
      (st.phase = .accel ∨ st.phase = .armed → exec (.spliceNow n) s = .next (marked id s).settle) ∧
      (st.phase = .matched →
        exec (.spliceNow n) s = .next (marked (fun st => { st with phase := .armed }) s).settle) ∧
      (st.phase = .pasted ∨ st.phase = .verify ∨ st.phase = .decel →
        exec (.spliceNow n) s = .next (s.event (.spliceRefused n st.phase)).settle)) ∧
    (∀ t, s.Fires (.web n) (.level true) t → exec (.webPresentChange n true) s =
      .next ({ t with plant := t.plant.modStand n fun st => { st with broken := false } }).settle) ∧
    (∀ t o, s.Fires (.web n) (.level false) t → st.phase = .none ∨ st.phase = .pasted ∨ st.phase = .decel →
      st.runArm = some o → s.inUse n = true → s.plant.pressRun = true → exec (.webPresentChange n false) s = .next ({ t with
        plant := (t.plant.modStand n fun st => { st with broken := true }).event (.webBreak n (some o))
        press := latched t.press }).settle) ∧
    (∀ t o, s.Fires (.web n) (.level false) t → st.phase = .accel ∨ st.phase = .matched ∨ st.phase = .armed →
      st.runArm = some o → s.inUse n = true → s.plant.pressRun = true →
      ∃ q st', exec (.webPresentChange n false) s = .next ({ t with plant := q, press := latched t.press }).settle ∧
        q.bus = (t.plant.bus.sendEvent (.webBreak n (some o))).sendEvent (.spliceAborted n 3) ∧ q.rolls = t.plant.rolls ∧
        q.stand? n = some st' ∧ st'.phase = .decel ∧ st'.broken = true ∧ st'.runArm = some o ∧ st'.matchedCount = 0 ∧
        st'.fireTime = none ∧ st'.spliceNow = false ∧
        (∀ m, (st.arm m).state = .spin → (m = .b → st.armA.state ≠ .spin) → st'.arm m = { st.arm m with
          drive := 0, brake := 0, lastPulse := some ((st.arm m).lastPulse.getD s.plant.clock.us) } ∧
          st'.arm m.other = st.arm m.other)) ∧
    (∀ t, s.Fires (.web n) (.level false) t → st.phase = .verify → exec (.webPresentChange n false) s = .next ({ t with
      plant := (t.plant.modStand n fun st => { st with
        phase := .none, pastePos := none, verifyStart := none, oldRoll := .none, fireTime := none, spliceNow := false
        broken := true }).event (.spliceFailed n st.runArm)
      press := if s.inUse n = true ∧ s.plant.pressRun = true then latched t.press else t.press }).settle) ∧
    (∀ t, s.Fires (.web n) (.level false) t → st.phase ≠ .verify →
      st.runArm = none ∨ s.inUse n = false ∨ s.plant.pressRun = false → exec (.webPresentChange n false) s = .next t.settle)

/-- A web pulse in SURVEY or RUN adds K to the stand's W, modulo 2^64 in Q16 and so modulo 2^48 um; in another node state it
is not counted. A pulsed output goes off when its time has come, and not before (log 2). -/
def Obligations.WebPulsesAndOutputs : Prop :=
  ∀ (s : State) (n : Nat),
    let counted : WebUnit := { s.press.web with
      stands := updateIf (fun w => w.num == n) (fun w => { w with w := w.w + BitVec.ofNat 64 w.k }) s.press.web.stands }
    (s.plant.node = .survey ∨ s.plant.node = .run →
      exec (.webPulse n) s = .next { s with press := { s.press with web := counted } }) ∧
    (s.plant.node ≠ .survey → s.plant.node ≠ .run → exec (.webPulse n) s = .next s) ∧
    let left (T : Ticks) : Option Ticks := if reached s.plant.clock.ms T then none else some T
    exec (.outputPulseEnd n .paster) s = .next (s.modStand n fun st => { st with pasterEnd := st.pasterEnd.bind left }) ∧
    exec (.outputPulseEnd n .knife) s = .next (s.modStand n fun st => { st with knifeEnd := st.knifeEnd.bind left })

/-- The phases of a splice: the settle revolutions lead to MATCHED, or ARMED with the splice-now mark; the fire time pastes: the
paster fires, W_p is W, a mark joins the tail of the stand's queue, once it is up to date (a fifth resolves the oldest, with its
folder roll and MARK_FORCED); W past the knife offset fires the knife and swaps the roles, the new RUN arm's brake by the tension
formula (what else the old one's estimator holds stays: the model's choice, log 73); with no web the splice has failed at once; W
past the verify length ends the splice with SPLICE_DONE, which names the roll that was cut as the old one (0 once its record is
deleted, log 38). Before their conditions hold the four do nothing (log 2); ENTER_MATCHED, a step of STANDBY_PULSE, is given by
itself (log 30). -/
def Obligations.SplicesFollowTheirPhases : Prop :=
  ∀ (s : State) (n : Nat) (st : Stand) (c : StandCfg), s.plant.lineRun = true → s.plant.stand? n = some st →
    s.plant.standCfg n = some c →
    let off (ms : Nat) : Option Ticks := some (s.plant.clock.ms + BitVec.ofNat 32 ms)
    (st.phase = .accel → c.settleRevs ≤ st.matchedCount → exec (.enterMatched n) s =
      .next (s.modStand n fun st => { st with phase := if st.spliceNow then .armed else .matched })) ∧
    (∀ T o w, st.phase = .armed → st.fireTime = some T → reached s.plant.clock.us T = true → st.runArm = some o →
      (s.bringUp n).waste? n = some w → w.marks.length < 4 →
      let mark : Mark := { pos := s.webPos n, old := (st.arm o).roll, new := (st.arm o.other).roll, reached := false }
      let pasted : State := s.modStand n fun st =>
        { st with pasterEnd := off c.pulseWidth, pastePos := some (s.webPos n), fireTime := none, spliceNow := false,
                  phase := .pasted }
      let marked : WasteUnit := { s.press.waste with
        stands := updateIf (fun w => w.num == n) (fun w => { w with marks := w.marks ++ [mark] })
          (s.bringUp n).press.waste.stands }
      let discarded : WebUnit := { s.press.web with
        stands := updateIf (fun w => w.num == n) (fun w => { w with trimStart := none, trimCount := 0 })
          s.press.web.stands }
      exec (.paste n) s = .next { pasted with press := { s.press with waste := marked, web := discarded } }) ∧
    (∀ T o w m ms, st.phase = .armed → st.fireTime = some T → reached s.plant.clock.us T = true → st.runArm = some o →
      (s.bringUp n).waste? n = some w → w.marks = m :: ms → 4 ≤ w.marks.length →
      let mark : Mark := { pos := s.webPos n, old := (st.arm o).roll, new := (st.arm o.other).roll, reached := false }
      let pasted : State := s.modStand n fun st =>
        { st with pasterEnd := off c.pulseWidth, pastePos := some (s.webPos n), fireTime := none, spliceNow := false,
                  phase := .pasted }
      let marked : WasteUnit := { s.press.waste with
        stands := updateIf (fun w => w.num == n) (fun w => { w with
          marks := ms ++ [mark], folder := if m.reached then w.folder else m.new }) (s.bringUp n).press.waste.stands }
      let discarded : WebUnit := { s.press.web with
        stands := updateIf (fun w => w.num == n) (fun w => { w with trimStart := none, trimCount := 0 })
          s.press.web.stands }
      exec (.paste n) s = .next { pasted with
        plant := pasted.plant.event (.markForced n m.pos (s.plant.refNo m.old) (s.plant.refNo m.new))
        press := { s.press with waste := marked, web := discarded } }) ∧
    (∀ o W, st.phase = .pasted → st.pastePos = some W → passed (s.webPos n) (W + mm c.knifeOffset) = true →
      st.runArm = some o → (st.arm o).state = .run → (st.arm o.other).state = .spin → s.plant.webPresent n = true →
      ∃ q st', exec (.knife n) s = .next ({ s with plant := q }).settle ∧ q.bus = s.plant.bus ∧
        q.traffic = s.plant.traffic ∧ q.sched = s.plant.sched ∧ q.supply = s.plant.supply ∧ q.stand? n = some st' ∧
        st'.runArm = some o.other ∧ st'.phase = .verify ∧ st'.verifyStart = some (s.webPos n) ∧ st'.matchedCount = 0 ∧
        st'.runOut = false ∧ st'.knifeEnd = off c.pulseWidth ∧ st'.oldRoll = (st.arm o).roll ∧
        (∀ h r d g, (st.arm o.other).roll = .record h → (st.arm o).roll ≠ .record h → s.plant.roll? h = some r →
          r.diam = some d → s.plant.gradeCfg (r.grade.getD 0) = some g → 0 < c.torqueMax →
          (st'.arm o.other).brake = min 1000 ((g.tension * d + 10 * c.torqueMax) / (20 * c.torqueMax))) ∧
        st'.arm o = { st.arm o with state := .butt, brake := 1000, drive := 0, lastPulse := some s.plant.clock.us,
                                    stopped := false, est := { (st.arm o).est with mode := .none } } ∧
        (st'.arm o.other).state = .run ∧ (st'.arm o.other).drive = 0 ∧ (st'.arm o.other).est.mode = .seeding ∧
        (∀ h r, (st.arm o).roll = .record h → s.plant.roll? h = some r → r.state = .run →
          ∃ r', q.roll? h = some r' ∧ r'.state = .butt ∧ r'.prepared = false ∧ r'.claim = r.claim ∧
            r'.diam = ((st.arm o).est.dFilt <|> r.diam)) ∧
        (∀ h r, (st.arm o.other).roll = .record h → s.plant.roll? h = some r → r.state = .ready →
          ∃ r', q.roll? h = some r' ∧ r'.state = .run ∧
            r'.claim = if r.claim = .stand n then .none else r.claim)) ∧
    (∀ o W, st.phase = .pasted → st.pastePos = some W → passed (s.webPos n) (W + mm c.knifeOffset) = true →
      st.runArm = some o → (st.arm o).state = .run → (st.arm o.other).state = .spin → s.plant.webPresent n = false →
      ∃ q st', exec (.knife n) s = .next ({ s with
          plant := q
          press := if s.inUse n = true ∧ s.plant.pressRun = true then
            { s.press with waste := { s.press.waste with latch := true } } else s.press }).settle ∧
        q.bus = s.plant.bus.sendEvent (.spliceFailed n (some o.other)) ∧ q.stand? n = some st' ∧
        st'.runArm = some o.other ∧ st'.phase = .none ∧ st'.pastePos = none ∧ st'.verifyStart = none ∧
        st'.broken = true ∧ st'.knifeEnd = off c.pulseWidth ∧ (st'.arm o).state = .butt ∧
        (st'.arm o.other).state = .run) ∧
    (∀ o W, st.phase = .verify → st.verifyStart = some W → passed (s.webPos n) (W + mm c.verifyLen) = true →
      st.runArm = some o → exec (.verifyPassed n) s = .next ((s.modStand n fun st =>
        { st with phase := .none, pastePos := none, verifyStart := none, oldRoll := .none, fireTime := none, spliceNow := false
          }).event (.spliceDone n (some o) (s.plant.refNo st.oldRoll) (s.plant.refNo (st.arm o).roll)))) ∧
    (st.phase ≠ .accel ∨ st.matchedCount < c.settleRevs → exec (.enterMatched n) s = .next s) ∧
    (st.phase ≠ .armed ∨ st.fireTime = none ∨
        (∃ T, st.fireTime = some T ∧ reached s.plant.clock.us T = false) → exec (.paste n) s = .next s) ∧
    (st.phase ≠ .pasted ∨ (∃ W, st.pastePos = some W ∧ passed (s.webPos n) (W + mm c.knifeOffset) = false) →
      exec (.knife n) s = .next s) ∧
    (st.phase ≠ .verify ∨ (∃ W, st.verifyStart = some W ∧ passed (s.webPos n) (W + mm c.verifyLen) = false) →
      exec (.verifyPassed n) s = .next s)

/-- A revolution pulse of a RUN arm: a reference, or a measurement that seeds the estimator, moves it an eighth of the way
down, or is rejected, the paper being taken off S, not below the core's square (also where that has risen above D_filt: the model's
choice, log 72), and D_filt being the largest integer whose square S reaches. PULSE_LOST, given
by itself at a window that is due (log 32), of an arm more than two expected periods without a pulse at that window's speed, enters
COAST; otherwise nothing happens (log 2). The line is one: a pulse of an arm in another state acts by that state. Of a BUTT arm, and of a
SPIN arm in DECEL, only the last pulse time is set; of a SPIN arm after the paste or with no splice, and of an EMPTY, MOUNTED or READY
arm, it changes nothing (the model's choices, log 30). -/
def Obligations.RunArmsAreMeasured : Prop :=
  (∀ (s : State) (n : Nat) (m : Arm) (st : Stand), s.plant.lineRun = true → s.plant.stand? n = some st →
    let a := st.arm m
    (a.state = .butt ∨ (a.state = .spin ∧ st.phase = .decel) → exec (.revolutionPulse n m) s =
      .next (s.modArm n m fun a => { a with lastPulse := some s.plant.clock.us })) ∧
    (a.state = .empty ∨ a.state = .mounted ∨ a.state = .ready ∨
        (a.state = .spin ∧ (st.phase = .none ∨ st.phase = .pasted ∨ st.phase = .verify)) →
      exec (.revolutionPulse n m) s = .next s) ∧
    (a.state = .spin → st.phase = .accel ∨ st.phase = .matched ∨ st.phase = .armed →
      exec (.revolutionPulse n m) s = exec (.standbyPulse n m) s)) ∧
  ∀ (s : State) (n : Nat) (m : Arm) (st : Stand), s.plant.lineRun = true → s.plant.stand? n = some st →
    (st.arm m).state = .run →
    let e := (st.arm m).est
    let g := s.plant.figures (st.arm m)
    let W := s.webPos n
    let now : Ticks := s.plant.clock.us
    let est (f : Estimator) : State := s.modArm n m fun a => { a with est := f }
    let less (len : Nat) : Nat := max (g.core * g.core) (e.sq.getD 0 - 40 * g.caliper * len / 314159)
    (e.mode = .coast → exec (.revolutionPulse n m) s =
      .next (est { e with mode := .measuring, lastTime := now, lastCap := some W })) ∧
    (e.mode ≠ .coast → e.lastCap = none → exec (.revolutionPulse n m) s =
      .next (est { e with lastTime := now, lastCap := some W })) ∧
    (∀ old, e.lastCap = some old →
      let len := (W - old).toNat
      let d := (len * 1000 + 157079) / 314159
      let valid : Prop := g.core ≤ d ∧ d ≤ 16000
      (e.mode = .seeding → ¬valid → exec (.revolutionPulse n m) s =
        .next (est { e with lastTime := now, lastCap := some W })) ∧
      (e.mode = .seeding → valid →
        let f := max g.core (min d ((g.diam.map (· + 100)).getD 16000))
        exec (.revolutionPulse n m) s = .next (est
          { e with mode := .measuring, dFilt := some f, sq := some (f * f), lastTime := now, lastCap := some W })) ∧
      (∀ f, e.mode = .measuring → e.dFilt = some f → valid → d ≤ f + 200 → f ≤ d + 200 →
        exec (.revolutionPulse n m) s = .next (est { e with
          dFilt := some (if d < f then f - (f - d) / 8 else f)
          sq := if d < f then some ((f - (f - d) / 8) * (f - (f - d) / 8)) else e.sq
          rejects := 0, lastTime := now, lastCap := some W })) ∧
      (∀ f, e.mode = .measuring → e.dFilt = some f → ¬valid ∨ f + 200 < d ∨ d + 200 < f →
        ∃ r, r * r ≤ less len ∧ less len < (r + 1) * (r + 1) ∧
          let rejected : Estimator := { e with
            dFilt := some r, sq := some (less len), rejects := min 255 (e.rejects + 1), lastTime := now,
            lastCap := some W }
          (e.rejects < 3 → exec (.revolutionPulse n m) s = .next (est rejected)) ∧
          (3 ≤ e.rejects → valid → d < r → exec (.revolutionPulse n m) s = .next (est
            { rejected with dFilt := some d, sq := some (d * d), rejects := 0 })) ∧
          (3 ≤ e.rejects → ¬valid ∨ r ≤ d → e.suspect = true → exec (.revolutionPulse n m) s = .next (est rejected)) ∧
          (3 ≤ e.rejects → ¬valid ∨ r ≤ d → e.suspect = false → exec (.revolutionPulse n m) s = .next
            ((est { rejected with suspect := true }).event (.diameterSuspect n m r d))))) ∧
    (∀ w, s.web? n = some w → st.runArm = some m →
      let v := min 20000 ((W - w.wLast).toNat / 250)
      let late (f : Nat) : Prop := reached now (e.lastTime + BitVec.ofNat 32 (2 * (314159 * f / v) + 1)) = true
      let due : Prop := reached s.plant.clock.ms s.press.web.windowEnd = true
      (∀ f C, due → e.mode = .measuring → e.dFilt = some f → e.lastCap = some C → 500 ≤ v → late f →
        ∃ r, r * r ≤ less (W - C).toNat ∧ less (W - C).toNat < (r + 1) * (r + 1) ∧
          exec (.pulseLost n) s = .next ((est { e with
            mode := .coast, dFilt := some r, sq := some (less (W - C).toNat), lastCap := none, rejects := 0
            coastFrom := some W }).event (.pulseLost n m r))) ∧
      (¬due ∨ e.mode ≠ .measuring ∨ v < 500 ∨ (∃ f, e.dFilt = some f ∧ ¬late f) → exec (.pulseLost n) s = .next s))

/-- A standby pulse of a SPIN arm: the first only sets the time; later ones are judged by the surface speed: matched ones
count in ACCEL (to MATCHED at the settle revolutions) and MATCHED, schedule the paste in ARMED, or abort it when the fire
delay stays negative; unmatched ones go back to ACCEL with the count at 0. Arms of a stand in DECEL, and BUTT arms, that have
given no pulse for more than 4 s are seen stopped; before that they are left alone (log 2; the two rows are given by themselves, log 30).
A pulse of a BUTT arm, and of a SPIN arm in DECEL, only sets the last pulse time; that of a RUN arm is a revolution pulse; of a SPIN arm
after the paste or with no splice, and of an EMPTY, MOUNTED or READY arm, it changes nothing (the model's choices, log 30). -/
def Obligations.StandbyArmsAreJudgedAndStopped : Prop :=
  ∀ (s : State) (n : Nat) (m : Arm) (st : Stand) (c : StandCfg), s.plant.lineRun = true → s.plant.stand? n = some st →
    s.plant.standCfg n = some c →
    let a := st.arm m
    let now : Ticks := s.plant.clock.us
    let seen (f : Stand → Stand) : State :=
      s.modStand n fun st => f (st.setArm m fun a => { a with lastPulse := some now })
    let stopped (t : Ticks) : Prop := reached now (t + 4000001#32) = true
    (a.state = .butt ∨ (a.state = .spin ∧ st.phase = .decel) → exec (.standbyPulse n m) s = .next (seen id)) ∧
    (a.state = .empty ∨ a.state = .mounted ∨ a.state = .ready ∨
        (a.state = .spin ∧ (st.phase = .none ∨ st.phase = .pasted ∨ st.phase = .verify)) →
      exec (.standbyPulse n m) s = .next s) ∧
    (a.state = .run → exec (.standbyPulse n m) s = exec (.revolutionPulse n m) s) ∧
    (a.state = .spin → st.phase = .accel ∨ st.phase = .matched ∨ st.phase = .armed → a.lastPulse = none →
      exec (.standbyPulse n m) s = .next (seen id)) ∧
    (∀ t h r d, a.state = .spin → a.lastPulse = some t → a.roll = .record h → s.plant.roll? h = some r →
      r.diam = some d → 0 < s.speed n → t ≠ now →
      let rev := (now - t).toNat
      let v := s.speed n
      let arm := 314159 * d / rev
      let matched : Prop := (v - arm) * 1000 ≤ 3 * v ∧ (arm - v) * 1000 ≤ 3 * v
      let delay : Int := (c.theta * rev / 1000 : Nat) - (c.actuatorDelay : Int)
      let fire : Int := if delay < 0 then delay + rev else delay
      (st.phase = .accel → matched → st.matchedCount + 1 < c.settleRevs → st.matchedCount < 15 →
        exec (.standbyPulse n m) s = .next (seen fun st => { st with matchedCount := min 15 (st.matchedCount + 1) })) ∧
      (st.phase = .accel → matched → c.settleRevs ≤ min 15 (st.matchedCount + 1) → exec (.standbyPulse n m) s =
        .next (seen fun st => { st with
          matchedCount := min 15 (st.matchedCount + 1), phase := if st.spliceNow then .armed else .matched })) ∧
      (st.phase = .accel → ¬matched → exec (.standbyPulse n m) s =
        .next (seen fun st => { st with matchedCount := 0 })) ∧
      (st.phase = .matched → matched → exec (.standbyPulse n m) s =
        .next (seen fun st => { st with matchedCount := min 15 (st.matchedCount + 1) })) ∧
      (st.phase = .matched ∨ (st.phase = .armed ∧ st.fireTime = none) → ¬matched → exec (.standbyPulse n m) s =
        .next (seen fun st => { st with phase := .accel, matchedCount := 0 })) ∧
      (st.phase = .armed → st.fireTime = none → matched → 0 ≤ fire → exec (.standbyPulse n m) s =
        .next (seen fun st => { st with fireTime := some (now + BitVec.ofNat 32 fire.toNat) })) ∧
      (st.phase = .armed → st.fireTime = none → matched → fire < 0 → exec (.standbyPulse n m) s =
        .next ((seen id).abort n 4)) ∧
      (st.phase = .armed → st.fireTime ≠ none → exec (.standbyPulse n m) s = .next (seen id))) ∧
    (∀ t, st.phase = .decel → a.state = .spin → (m = .b → st.armA.state ≠ .spin) → a.lastPulse = some t → stopped t →
      exec (.decelStopped n) s = .next (s.modStand n fun st =>
        { (st.setArm m fun a => { a with state := .ready, brake := 1000, drive := 0, lastPulse := none }) with
          phase := .none, pastePos := none, verifyStart := none, oldRoll := .none, fireTime := none, spliceNow := false })) ∧
    ((∀ t, a.lastPulse = some t → ¬stopped t) → (a.state = .butt → exec (.buttStopped n m) s = .next s.settle) ∧
      (st.phase = .decel → a.state = .spin → (m = .b → st.armA.state ≠ .spin) → exec (.decelStopped n) s = .next s)) ∧
    (∀ t, a.state = .butt → a.stopped = false → a.lastPulse = some t → stopped t →
      (a.roll = .unrecorded → exec (.buttStopped n m) s =
        .next (s.modArm n m fun a => { a with stopped := true }).settle) ∧
      (∀ h r, a.roll = .record h → s.plant.roll? h = some r → s.plant.inTask h = false →
        s.plant.sched.queue.length < 16 →
        ∃ q, exec (.buttStopped n m) s = .next ({ s with plant := q }).settle ∧ q.rolls = s.plant.rolls ∧
          q.bus = s.plant.bus.send 0 (.rollReport n m r.snapshot r.runMetres r.copies r.waste) ∧
          (q.arm? n m).map (·.stopped) = some true ∧
          ∃ t ∈ q.sched.queue, t.kind = .unload ∧ t.roll = h ∧ t.src = .arm n m ∧ t.stand = some n ∧
            t.state = .waiting))

/-- SPEED_WINDOW, once its 250 ms are over: every stand's W_last is the integer part of W and its v the advance over 250, at most
20,000; nothing else in SURVEY. In RUN on a LINE node the edition and the gate stay, the press stop request stands exactly while a
stand's run-out flag is set, and each stand, in increasing number (the model's choice, log 26), goes through the steps of R108 and
R130, each as the ones before left it: coasting or the loss of pulses (R115, R116; after a PULSE_LOST given by itself only the web
after coastFrom is taken off: the model's choice, log 32), the report to the roll table (R11), the forecast (R117, R118), the duties
(R127, R128), run-out (R144), the minimum speed (R140), ACCEL (R133, each of its conditions: without a READY standby arm whose roll is
known and has a diameter the stand stays in NONE) and ARMED (R135), the roll request and the withdrawal of a call
(R30 to R34, R50, R131, R132) and the urgencies (R90). The output-valid line is read at any moment as R129 has it at a speed window:
high in RUN unless the run arm has no diameter (DEDUCED, log 14). The squared estimate does not fall below the core's, also where
that has risen above D_filt (the model's choice, log 72). Before its time nothing happens (log 2). -/
def Obligations.SpeedWindowsGiveSpeeds : Prop :=
  (∀ s : State,
    let due : Prop := (s.plant.node = .survey ∨ s.plant.node = .run) ∧
      reached s.plant.clock.ms s.press.web.windowEnd = true
    let web : WebUnit :=
      { windowEnd := s.press.web.windowEnd + 250#32
        stands := s.press.web.stands.map fun w =>
          if 1 ≤ w.num ∧ w.num ≤ 4 then
            { w with wLast := WebAcc.whole w.w, v := min 20000 ((WebAcc.whole w.w - w.wLast).toNat / 250) }
          else w }
    (¬due → exec .speedWindow s = .next s) ∧
    (due → s.plant.lineRun = false → exec .speedWindow s = .next { s with press := { s.press with web := web } }) ∧
    (due → s.plant.lineRun = true → ∃ t, exec .speedWindow s = .next t ∧ t.pending = s.pending ∧ t.press.web = web ∧
      t.press.edition = s.press.edition ∧ t.press.waste.gate = s.press.waste.gate ∧
      t.plant.splice.pressStop = t.plant.splice.stands.any (·.runOut) ∧
      t = (forEach (oneTo 4) State.standWindow { s with press := { s.press with
        web := { s.press.web with windowEnd := s.press.web.windowEnd + 250#32 } } }).bringAll.modPlant fun p =>
          ({ p with splice := { p.splice with pressStop := p.splice.stands.any (·.runOut) } }).settle)) ∧
  (∀ (u : State) (n : Nat) (w : WebStand), u.plant.lineRun = true → u.web? n = some w → u.standWindow n =
    (((((((u.modWeb n WebStand.window).measureWindow n (WebAcc.whole w.w - w.wLast).toNat).dutyStep n).runOutStep n).speedStep
      n).phaseStep n).stoppedStep n |>.requestStep n).modPlant fun p => p.urgencyStep n) ∧
  (∀ (u : State) (n adv : Nat), u.measureWindow n adv = match (u.plant.stand? n).bind (·.runArm) with
    | some o => ((u.estimatorWindow n o adv).creditWindow n o adv).forecast n
    | none => u.forecast n) ∧
  (∀ (u : State) (n : Nat) (st : Stand) (c : StandCfg), u.plant.stand? n = some st → u.plant.standCfg n = some c →
    let v := u.speed n
    let W := u.webPos n
    let now := u.plant.clock.us
    let grade (a : ArmRec) : GradeCfg := u.plant.gradeOr0 ((u.plant.refRoll a.roll).bind (·.grade))
    let running (a : ArmRec) : Option Nat := a.est.dFilt <|> (u.plant.refRoll a.roll).bind (·.diam)
    let less (a : ArmRec) (len : Nat) : Nat := max ((u.plant.figures a).core * (u.plant.figures a).core)
      (a.est.sq.getD 0 - 40 * (u.plant.figures a).caliper * len / 314159)
    let driven (b : ArmRec) : Nat :=
      let k := 314159 * ((u.plant.refRoll b.roll).bind (·.diam)).getD 0 * c.rpmMax
      min 1000 ((60000000000 * v + k / 2) / k)
    (∀ o adv, st.runArm = some o →
      let a := st.arm o
      let t := u.estimatorWindow n o adv
      (∀ f, a.est.mode = .measuring → a.est.dFilt = some f → 500 ≤ v →
          reached now (a.est.lastTime + BitVec.ofNat 32 (2 * (314159 * f / v) + 1)) = true → ∀ C, a.est.lastCap = some C →
        ∃ r, r * r ≤ less a (W - C).toNat ∧ less a (W - C).toNat < (r + 1) * (r + 1) ∧
          t.plant.bus = u.plant.bus.sendEvent (.pulseLost n o r) ∧ t.plant.arm? n o = some { a with est := { a.est with
            mode := .coast, dFilt := some r, sq := some (less a (W - C).toNat), lastCap := none, rejects := 0
            coastFrom := none } }) ∧
      (a.est.mode = .coast →
        let len := match a.est.coastFrom with
          | some x => (W - x).toNat
          | none => adv
        ∃ r, r * r ≤ less a len ∧ less a len < (r + 1) * (r + 1) ∧ t.plant.bus = u.plant.bus ∧ t.plant.arm? n o =
          some { a with est := { a.est with dFilt := some r, sq := some (less a len), coastFrom := none } }) ∧
      (a.est.mode = .none ∨ a.est.mode = .seeding ∨ (a.est.mode = .measuring ∧ (v < 500 ∨ ∃ f, a.est.dFilt = some f ∧
          reached now (a.est.lastTime + BitVec.ofNat 32 (2 * (314159 * f / v) + 1)) = false)) → t = u) ∧
      (∀ h r, a.roll = .record h → u.plant.roll? h = some r → (u.creditWindow n o adv).plant.roll? h = some { r with
        runMetres := min 4294967295 (r.runMetres + (r.runResidue + adv) / 1000000)
        runResidue := (r.runResidue + adv) % 1000000
        diam := if a.est.mode = .measuring ∨ a.est.mode = .coast then (a.est.dFilt <|> r.diam) else r.diam })) ∧
    (∃ L T, (u.forecast n).plant.stand? n = some { st with remaining := L, timeToSplice := T } ∧
      (st.runArm = none → L = none) ∧
      (∀ o, st.runArm = some o →
        let d := match (st.arm o).est.mode with
          | .measuring => (st.arm o).est.dFilt
          | .coast => (st.arm o).est.dFilt
          | .seeding => (u.plant.refRoll (st.arm o).roll).bind (·.diam)
          | .none => none
        let g := grade (st.arm o)
        L = d.map fun d => if d ≤ g.ds then 0 else 314159 * (d * d - g.ds * g.ds) / (40000000 * g.caliper)) ∧
      (L = none → T = 65535) ∧
      (∀ l, L = some l → T = if v < 500 then 65535 else min 65534 (l * 1000 / v))) ∧
    (∀ o d, st.runArm = some o → running (st.arm o) = some d → 0 < c.torqueMax →
      ((u.dutyStep n).plant.arm? n o).map (·.brake) =
        some (min 1000 (((grade (st.arm o)).tension * d + 10 * c.torqueMax) / (20 * c.torqueMax)))) ∧
    (∀ m, (st.arm m).state = .spin → (m = .b → st.armA.state ≠ .spin) →
      (st.phase = .accel ∨ st.phase = .matched ∨ st.phase = .armed ∨ st.phase = .pasted →
        0 < 314159 * ((u.plant.refRoll (st.arm m).roll).bind (·.diam)).getD 0 * c.rpmMax →
        ((u.dutyStep n).plant.arm? n m).map (·.drive) = some (driven (st.arm m))) ∧
      (st.phase = .decel → ((u.dutyStep n).plant.arm? n m).map (·.drive) = some (st.arm m).drive)) ∧
    (u.plant.lineRun = true → (u.plant.outputValid n = true ↔ ∀ o, st.runArm = some o → (running (st.arm o)).isSome = true)) ∧
    (∀ o, st.runArm = some o →
      let low (d : Nat) : Prop := (st.arm o).est.dFilt = some d ∧ u.plant.pressRun = true ∧
        d ≤ (u.plant.figures (st.arm o)).core + c.runOutMargin
      (∀ d, low d → st.runOut = false → u.runOutStep n =
        (u.modStand n fun st => { st with runOut := true }).event (.runOut n o d)) ∧
      ((∀ d, ¬low d) ∨ st.runOut = true → u.runOutStep n = u)) ∧
    (v < c.minSpeed → st.phase = .accel ∨ st.phase = .matched ∨ st.phase = .armed →
      (u.speedStep n).plant.bus = u.plant.bus.sendEvent (.spliceAborted n 1) ∧
      ((u.speedStep n).plant.stand? n).map (fun st => (st.phase, st.matchedCount, st.fireTime, st.spliceNow)) =
        some (.decel, 0, none, false)) ∧
    (c.minSpeed ≤ v ∨ st.phase = .none ∨ st.phase = .pasted ∨ st.phase = .verify ∨ st.phase = .decel → u.speedStep n = u) ∧
    (∀ o h r d, st.phase = .none → st.runArm = some o → st.broken = false → c.minSpeed ≤ v → u.plant.pressRun = true →
      (st.arm o.other).state = .ready → (st.arm o.other).roll = .record h → u.plant.roll? h = some r →
      r.unknown = false → r.diam = some d → st.timeToSplice ≤ c.accelLead ∨ st.spliceNow = true →
      let t := u.phaseStep n
      t.plant.bus = u.plant.bus ∧ t.plant.rolls = u.plant.rolls ∧
        (t.plant.stand? n).map (fun st => (st.phase, st.matchedCount)) = some (.accel, 0) ∧
        (0 < d * c.rpmMax → t.plant.arm? n o.other = some { st.arm o.other with
          state := .spin, brake := 0, lastPulse := none, drive := driven (st.arm o.other) })) ∧
    (∀ o, st.phase = .matched → st.runArm = some o →
      (∀ d, (st.arm o).est.dFilt = some d → d ≤ (grade (st.arm o)).ds →
        u.phaseStep n = u.modStand n fun st => { st with phase := .armed }) ∧
      ((∀ d, (st.arm o).est.dFilt = some d → (grade (st.arm o)).ds < d) → u.phaseStep n = u)) ∧
    ((st.phase ≠ .none ∧ st.phase ≠ .matched) ∨ (st.phase = .none ∧
        (st.broken = true ∨ v < c.minSpeed ∨ u.plant.pressRun = false ∨ st.runArm = none ∨
          (c.accelLead < st.timeToSplice ∧ st.spliceNow = false) ∨
          (∃ o, st.runArm = some o ∧ ((st.arm o.other).state ≠ .ready ∨
            ∀ h r, (st.arm o.other).roll = .record h → u.plant.roll? h = some r → r.unknown = true ∨ r.diam = none)))) →
      u.phaseStep n = u) ∧
    u.stoppedStep n = (u.modPlant fun p => ((p.decelStopped n).buttStopped n .a).buttStopped n .b) ∧
    (let need := u.press.edition.need n
     let idle (o : Arm) : Prop := (st.arm o.other).state = .empty ∨ (st.arm o.other).state = .butt
     let asks : Prop := (∃ o, st.runArm = some o ∧ idle o) ∧ u.inUse n = true ∧ u.plant.standClaimed n = false ∧
       st.timeToSplice ≤ c.callLead ∧ (∀ w, need = some w → ∃ l, st.remaining = some l ∧ l < w)
     let drops : Prop := (∀ o, st.runArm = some o → ¬idle o) ∨ u.inUse n = false ∨
       u.press.edition.state = .complete ∨ ∃ w l, need = some w ∧ st.remaining = some l ∧ w ≤ l
     (¬asks → ¬drops → u.requestStep n = u.modStand n fun st => { st with requested := false }) ∧
     (¬asks → drops → u.requestStep n =
       (u.modStand n fun st => { st with requested := false }).modPlant fun p => p.withdrawCall n) ∧
     (∀ q a, asks → ¬drops → u.plant.rollRequest n (match need with
         | some w => w - st.remaining.getD 0
         | none => 0) = (q, a) →
       u.requestStep n = { u with plant := q.modStand n fun st => { st with requested := true, lastAnswer := some a } })) ∧
    (u.plant.urgencyStep n).sched = { u.plant.sched with queue := u.plant.sched.queue.map fun t =>
      if (t.kind = .feedPrep ∨ t.kind = .feedMount) ∧ t.stand = some n then { t with urgency := st.timeToSplice } else t }) ∧
  (∀ (p : Plant) (n need : Nat) (st : Stand), p.stand? n = some st →
    (∀ g w, p.pattern n = some (g, w) ↔ ∃ o h r, st.runArm = some o ∧ (st.arm o).roll = .record h ∧
      p.roll? h = some r ∧ r.grade = some g ∧ r.width = some w) ∧
    (p.pattern n = none → p.rollRequest n need = (if st.unidentSent = true then p else
      (p.modStand n fun st => { st with unidentSent := true }).event (.standUnidentified n), .unmatched)) ∧
    (∀ g w, p.pattern n = some (g, w) → p.eligible n g w = [] →
      (∀ k, p.callOf? n = some k →
        p.rollRequest n need = (p.modStand n fun st => { st with unidentSent := false }, .called)) ∧
      (p.callOf? n = none → p.rollRequest n need =
        (({ p.modStand n (fun st => { st with unidentSent := false }) with supply := { p.supply with
            calls := p.supply.calls ++ [({
              num := p.supply.nextCall, stand := n, grade := g, width := w, minLen := need, state := .opened, best := none
              offerers := [], expiry := p.clock.ms + 400#32, link := none } : Call)]
            nextCall := if 255 ≤ p.supply.nextCall then 0 else p.supply.nextCall + 1 } }).send 0
          (.call p.supply.nextCall g w need), .called))) ∧
    (∀ g w x, p.pattern n = some (g, w) → p.chooseRoll need (p.eligible n g w) = some x → x ∈ p.eligible n g w →
      let bus := match p.callOf? n with
        | some k => if k.state = .opened ∨ k.state = .chosen then p.bus.send 0 (.close k.num) else p.bus
        | none => p.bus
      let calls := if (p.callOf? n).map (·.state) = some .inbound then p.supply.calls
        else p.supply.calls.filter (·.stand != n)
      (p.sched.queue.length < 16 → ∃ q, p.rollRequest n need = (q, .selected) ∧ q.bus = bus ∧ q.supply.calls = calls ∧
        q.roll? x.h = some { x.r with claim := .stand n } ∧
        ∃ t ∈ q.sched.queue, t.kind = .feedPrep ∧ t.roll = x.h ∧ t.src = .stop x.stop ∧ t.stand = some n ∧
          t.state = .waiting) ∧
      (16 ≤ p.sched.queue.length → ∃ q, p.rollRequest n need = (q, .deferred) ∧ q.supply.calls = calls ∧
        q.bus = (if p.sched.fullSent = true then bus else bus.sendEvent (.taskQueueFull .feedPrep)) ∧
        q.roll? x.h = some x.r ∧ q.sched.queue = p.sched.queue)) ∧
    (∀ g w x, x ∈ p.eligible n g w ↔ p.roll? x.h = some x.r ∧ x.r.state = .placed ∧ x.r.loc = .stop x.stop ∧
      (p.stopKind x.stop = some .slot ∨ p.stopKind x.stop = some .inn) ∧ p.stopLost x.stop = false ∧
      x.r.claim = .none ∧ x.r.unknown = false ∧ x.r.rejected = false ∧ p.inTask x.h = false ∧
      (p.stop? x.stop).bind (·.pending) = none ∧ x.r.grade = some g ∧
      (∃ k, x.r.width = some k ∧ k ≤ w + 5 ∧ w ≤ k + 5) ∧ 0 < p.storedRemaining x.r) ∧
    (∀ (l : List Standing) (x : Standing), x ∈ l →
      let covers (y : Standing) : Prop := y.r.part = true ∧ need ≤ p.storedRemaining y.r
      (0 < need → covers x → (∀ y ∈ l, covers y → y = x ∨ [p.storedRemaining x.r, youth x.r.dock, x.stop] <
        [p.storedRemaining y.r, youth y.r.dock, y.stop]) → p.chooseRoll need l = some x) ∧
      (need = 0 ∨ (∀ y ∈ l, ¬covers y) → (∀ y ∈ l, y = x ∨ [youth x.r.dock, x.stop] < [youth y.r.dock, y.stop]) →
        p.chooseRoll need l = some x)) ∧
    (∀ k, p.callOf? n = some k →
      let freed : Plant := { p with supply := { p.supply with calls := p.supply.calls.filter (·.stand != n) } }
      (k.state = .opened ∨ k.state = .chosen → p.withdrawCall n = freed.send 0 (.close k.num)) ∧
      (k.state = .failed → p.withdrawCall n = freed) ∧
      (∀ l h r, k.state = .inbound →
        (p.supply.links.find? fun l => l.inb.expecting && l.inb.claimed && l.inb.callNo == k.num) = some l →
        l.inb.roll = some h → p.roll? h = some r → (p.withdrawCall n).supply.calls = freed.supply.calls ∧
          (p.withdrawCall n).bus = p.bus ∧
          (p.withdrawCall n).roll? h = some { r with claim := if r.claim = .stand n then .none else r.claim } ∧
          ∀ y ∈ (p.withdrawCall n).supply.links, y.num = l.num → y.inb.claimed = false)))
end

