-- ==== Sys2Proof/Laws/Reach.lean ====
section
/-!
SUPPORT. What an operation on the plant can do, said once: it changes tables that are neither the roll table nor the bus
port, keeping the supply unit in order, puts tasks in the queue one at a time, changes roll records without their numbers, creates, names or frees one, or
changes the bus port keeping it in order. Time, the press-run pin and the loader stay. Every operation has one lemma here.
-/
namespace Sys2Proof.Machine

/-- `Reaches p q`: the plant `q` comes from `p` by such changes. -/
inductive Plant.Reaches : Plant → Plant → Prop
  | refl (p : Plant) : Reaches p p
  | trans {p q r : Plant} : Reaches p q → Reaches q r → Reaches p r
  | tables {p q : Plant} (clock : q.clock = p.clock) (pin : q.pressRun = p.pressRun) (loader : q.loader = p.loader)
      (bus : q.bus = p.bus) (rolls : q.rolls = p.rolls)
      (next : q.sched.next = p.sched.next)
      (queue : (q.sched.queue.map (·.num)).Sublist (p.sched.queue.map (·.num)))
      (supply : p.supply.InOrder → q.supply.InOrder) : Reaches p q
  | task {p : Plant} {r : TaskReq} (room : p.sched.queue.length < 16) :
      Reaches p { p with sched := { p.sched with
        queue := p.sched.queue ++ [p.newTask r (freeTaskNumber p.sched.queue 255 p.sched.next)]
        next := taskSucc (freeTaskNumber p.sched.queue 255 p.sched.next) } }
  | modRoll (p : Plant) (h : Handle) {f : Roll → Roll} (num : ∀ r, (f r).num = r.num) : Reaches p (p.modRoll h f)
  | name (p : Plant) (h : Handle) (n : Nat) (fresh : p.holderOf n = none) :
      Reaches p (p.modRoll h fun r => { r with num := some n, unknown := false })
  | create {p q : Plant} {h : Handle} {r : Roll} (made : p.createRoll r = some (h, q))
      (fresh : ∀ n, r.num = some n → p.holderOf n = none) : Reaches p q
  | free (p : Plant) (h : Handle) : Reaches p (p.freeRoll h)
  | bus (p : Plant) {f : BusPort → BusPort} (order : p.bus.InOrder → (f p.bus).InOrder) : Reaches p (p.modBus f)

/-! ### Records of the tables -/

section
variable {p₀ p : Plant}

/-- A change of tables that are not the queue, the roll table or the port. -/
theorem Plant.Reaches.same (h : Reaches p₀ p) {q : Plant} (clock : q.clock = p.clock) (pin : q.pressRun = p.pressRun)
    (loader : q.loader = p.loader) (bus : q.bus = p.bus) (rolls : q.rolls = p.rolls) (next : q.sched.next = p.sched.next)
    (queue : q.sched.queue.map (·.num) = p.sched.queue.map (·.num))
    (supply : p.supply.InOrder → q.supply.InOrder := by exact id) : Reaches p₀ q :=
  h.trans (.tables clock pin loader bus rolls next (queue ▸ .refl _) supply)

theorem Supply.InOrder.withLinks {u : Supply} (h : u.InOrder) (l : List LinkRec) :
    ({ u with links := l } : Supply).InOrder := ⟨h.calls, h.holds, h.distinct, h.taken⟩

theorem Supply.InOrder.withCalls {u : Supply} (h : u.InOrder) {l : List Call} (stands : (l.map (·.stand)).Nodup) :
    ({ u with calls := l } : Supply).InOrder := ⟨stands, h.holds, h.distinct, h.taken⟩

theorem Supply.InOrder.filterHolds {u : Supply} (h : u.InOrder) (f : Hold → Bool) :
    ({ u with holds := u.holds.filter f } : Supply).InOrder :=
  ⟨h.calls, Nat.le_trans (List.length_filter_le _ _) h.holds, h.distinct.sublist (List.filter_sublist.map _),
    h.taken.sublist ((List.filter_sublist.filter _).map _)⟩

/-- Holds changed in their rolls alone. -/
theorem Supply.InOrder.mapHolds {u : Supply} (h : u.InOrder) {f : Hold → Hold}
    (hf : ∀ k, (f k).caller = k.caller ∧ (f k).callNo = k.callNo ∧ (f k).link = k.link ∧ (f k).expiry = k.expiry) :
    ({ u with holds := u.holds.map f } : Supply).InOrder := by
  refine ⟨h.calls, by simpa using h.holds, ?_, ?_⟩
  · have e : (u.holds.map f).map (fun k => (k.caller, k.callNo)) = u.holds.map fun k => (k.caller, k.callNo) := by
      rw [List.map_map]
      exact List.map_congr_left fun k _ => by simp [hf k]
    exact e ▸ h.distinct
  · have e : ((u.holds.map f).filter (·.expiry.isNone)).map (·.link) =
        (u.holds.filter (·.expiry.isNone)).map (·.link) := by
      rw [List.filter_map, List.map_map,
        show ((fun k : Hold => k.expiry.isNone) ∘ f) = fun k => k.expiry.isNone by funext k; simp [hf k]]
      exact List.map_congr_left fun k _ => by simp [hf k]
    exact e ▸ h.taken

theorem map_stand_updateIf (l : List Call) (c : Call → Bool) (f : Call → Call) (hf : ∀ k, (f k).stand = k.stand) :
    (updateIf c f l).map (·.stand) = l.map (·.stand) := by
  unfold updateIf
  rw [List.map_map]
  apply List.map_congr_left
  intro t _
  simp only [Function.comp]
  split <;> simp [hf]

theorem Plant.modStop_reaches (h : Reaches p₀ p) {n f} : Reaches p₀ (p.modStop n f) := h.same rfl rfl rfl rfl rfl rfl rfl
theorem Plant.modCart_reaches (h : Reaches p₀ p) {n f} : Reaches p₀ (p.modCart n f) := h.same rfl rfl rfl rfl rfl rfl rfl
theorem Plant.modSection_reaches (h : Reaches p₀ p) {n f} : Reaches p₀ (p.modSection n f) :=
  h.same rfl rfl rfl rfl rfl rfl rfl
theorem Plant.modStand_reaches (h : Reaches p₀ p) {n f} : Reaches p₀ (p.modStand n f) :=
  h.same rfl rfl rfl rfl rfl rfl rfl
theorem Plant.modArm_reaches (h : Reaches p₀ p) {n m f} : Reaches p₀ (p.modArm n m f) :=
  h.same rfl rfl rfl rfl rfl rfl rfl
theorem Plant.modModule_reaches (h : Reaches p₀ p) {n f} : Reaches p₀ (p.modModule n f) :=
  h.same rfl rfl rfl rfl rfl rfl rfl
theorem Plant.modLink_reaches (h : Reaches p₀ p) {n f} : Reaches p₀ (p.modLink n f) :=
  h.same rfl rfl rfl rfl rfl rfl rfl fun k => k.withLinks _
theorem Plant.modCall_reaches (h : Reaches p₀ p) {n : Nat} {f : Call → Call}
    (hf : ∀ c, (f c).stand = c.stand) :
    Reaches p₀ (p.modCall n f) :=
  h.same rfl rfl rfl rfl rfl rfl rfl fun k => k.withCalls (by rw [map_stand_updateIf _ _ _ hf]; exact k.calls)
theorem Plant.freeCall_reaches (h : Reaches p₀ p) {n} : Reaches p₀ (p.freeCall n) :=
  h.same rfl rfl rfl rfl rfl rfl rfl fun k => k.withCalls (k.calls.sublist (List.filter_sublist.map _))
theorem Plant.dropHolds_reaches (h : Reaches p₀ p) {f} : Reaches p₀ (p.dropHolds f) :=
  h.same rfl rfl rfl rfl rfl rfl rfl fun k => k.filterHolds _
theorem Plant.setInput_reaches (h : Reaches p₀ p) {m pt v} : Reaches p₀ (p.setInput m pt v) :=
  h.same rfl rfl rfl rfl rfl rfl rfl
theorem Plant.clearPlaces_reaches (h : Reaches p₀ p) {k} : Reaches p₀ (p.clearPlaces k) :=
  h.same rfl rfl rfl rfl rfl rfl rfl
theorem Plant.swapHandles_reaches (h : Reaches p₀ p) {u x} : Reaches p₀ (p.swapHandles u x) :=
  h.same rfl rfl rfl rfl rfl rfl (by simp [Plant.swapHandles]) fun k =>
    (k.mapHolds (f := fun k => { k with roll := swapH u x k.roll }) fun _ => ⟨rfl, rfl, rfl, rfl⟩).withLinks _
theorem Plant.unexpect_reaches (h : Reaches p₀ p) {k} : Reaches p₀ (p.unexpect k) :=
  h.same rfl rfl rfl rfl rfl rfl rfl
theorem Plant.setLevels_reaches (h : Reaches p₀ p) : Reaches p₀ p.setLevels := h.same rfl rfl rfl rfl rfl rfl rfl
theorem Plant.pressStopNow_reaches (h : Reaches p₀ p) : Reaches p₀ p.pressStopNow :=
  h.same rfl rfl rfl rfl rfl rfl rfl

theorem map_num_updateIf (l : List Task) (c : Task → Bool) (f : Task → Task) (hf : ∀ t, (f t).num = t.num) :
    (updateIf c f l).map (·.num) = l.map (·.num) := by
  unfold updateIf
  rw [List.map_map]
  apply List.map_congr_left
  intro t _
  simp only [Function.comp]
  split <;> simp [hf]

theorem map_num_map (l : List Task) (f : Task → Task) (hf : ∀ t, (f t).num = t.num) :
    (l.map f).map (·.num) = l.map (·.num) := by
  rw [List.map_map]
  exact List.map_congr_left fun t _ => hf t

theorem Plant.modTask_reaches (h : Reaches p₀ p) {n : Nat} {f : Task → Task} (hf : ∀ t, (f t).num = t.num) :
    Reaches p₀ (p.modTask n f) :=
  h.same rfl rfl rfl rfl rfl rfl (map_num_updateIf _ _ _ hf)

theorem Plant.modRoll_reaches (h : Reaches p₀ p) {k : Handle} {f : Roll → Roll} (hf : ∀ r, (f r).num = r.num) :
    Reaches p₀ (p.modRoll k f) := h.trans (.modRoll p k hf)

theorem Plant.modRollIn_reaches (h : Reaches p₀ p) {k : Handle} {st : RollState} {f : Roll → Roll}
    (hf : ∀ r, (f r).num = r.num) : Reaches p₀ (p.modRollIn k st f) :=
  h.trans (.modRoll p k fun r => by split <;> simp [hf])

theorem Plant.freeRoll_reaches (h : Reaches p₀ p) {k : Handle} : Reaches p₀ (p.freeRoll k) := h.trans (.free p k)

/-- A record with no roll number is put in the table. -/
theorem Plant.unknown_reaches {q : Plant} {k : Handle} {r : Roll} (made : p.createRoll r = some (k, q))
    (num : r.num = none) (h : Reaches p₀ p) : Reaches p₀ q :=
  h.trans (.create made fun n hn => by rw [num] at hn; cases hn)

theorem Plant.release_reaches (h : Reaches p₀ p) {k : Handle} {c : Claim} : Reaches p₀ (p.release k c) :=
  h.trans (.modRoll p k fun r => by split <;> rfl)

theorem Plant.releaseStand_reaches (h : Reaches p₀ p) {k : Handle} : Reaches p₀ (p.releaseStand k) :=
  h.trans (.modRoll p k fun r => by split <;> rfl)

theorem forEach_reaches {α : Type} {l : List α} {f : Plant → α → Plant} (h : Plant.Reaches p₀ p)
    (hf : ∀ q x, Plant.Reaches p₀ q → Plant.Reaches p₀ (f q x)) : Plant.Reaches p₀ (forEach l f p) := by
  unfold forEach
  induction l generalizing p with
  | nil => exact h
  | cons x xs ih => exact ih (hf _ _ h)

theorem rounds_reaches {f : Plant → Option Plant} {n : Nat} (h : Plant.Reaches p₀ p)
    (hf : ∀ q r, Plant.Reaches p₀ q → f q = some r → Plant.Reaches p₀ r) : Plant.Reaches p₀ (rounds f n p) := by
  induction n generalizing p with
  | zero => exact h
  | succ k ih =>
    unfold rounds
    split
    · exact h
    · next hq => exact ih (hf _ _ h hq)

end

end Sys2Proof.Machine
end

