-- ==== Sys2Proof/Laws/Bus.lean ====
section
/-! SUPPORT. The bus port's operations keep it in order (R174 to R181). -/
namespace Sys2Proof.Machine

theorem satAdd_le (cap n k : Nat) : satAdd cap n k ≤ cap := Nat.min_le_left _ _
theorem wrapSucc_le (largest n : Nat) (h : n ≤ largest) : wrapSucc largest n ≤ largest := by
  unfold wrapSucc; split <;> omega

theorem filter_flying_append (q : List TxEntry) (f : Frame) :
    ((q ++ [({ frame := f, flying := false } : TxEntry)]).filter (·.flying)) = q.filter (·.flying) := by simp

theorem filter_flying_eraseP (q : List TxEntry) (c : Nat) :
    (q.eraseP fun e => !e.flying && e.frame.cls == c).filter (·.flying) = q.filter (·.flying) := by
  induction q with
  | nil => rfl
  | cons e es ih =>
    rw [List.eraseP_cons]
    by_cases he : (!e.flying && e.frame.cls == c) = true
    · have hf : e.flying = false := by simp at he; exact he.1
      rw [he, cond_true, List.filter_cons, hf]
      rfl
    · simp [he, List.filter_cons, ih]

theorem filter_flying_dropYoungest (q : List TxEntry) (c : Nat) :
    ((dropYoungest c q).filter (·.flying)).length = (q.filter (·.flying)).length := by
  unfold dropYoungest
  rw [List.filter_reverse, filter_flying_eraseP, List.filter_reverse, List.reverse_reverse]

theorem any_flying_iff (q : List TxEntry) : q.any (·.flying) = false ↔ (q.filter (·.flying)).length = 0 := by
  rw [List.length_eq_zero_iff, List.filter_eq_nil_iff]
  simp

theorem dropYoungest_length {q : List TxEntry} {c : Nat} (h : lowestWaiting q = some c) :
    (dropYoungest c q).length = q.length - 1 := by
  unfold dropYoungest
  have hm : c ∈ ((q.filter fun e => !e.flying).map (·.frame.cls)) := List.max?_mem h
  simp only [List.mem_map, List.mem_filter] at hm
  obtain ⟨e, ⟨he, hf⟩, rfl⟩ := hm
  rw [List.length_reverse, List.length_eraseP_of_mem (a := e) (by simpa using he) (by simpa using hf)]
  simp

/-- What a change of the transmit queue and the drop counter needs to keep the port in order. -/
theorem BusPort.InOrder.withTx {b : BusPort} (h : b.InOrder) {q : List TxEntry} {n : Nat} (len : q.length ≤ 12)
    (fly : (q.filter (·.flying)).length = (b.tx.filter (·.flying)).length) (drop : n ≤ 65535) :
    ({ b with tx := q, txDrop := n } : BusPort).InOrder where
  rx := h.rx
  tx := len
  oneFlying := by simpa only [fly] using h.oneFlying
  active := h.active
  silent := fun hs => by
    refine ⟨?_, (h.silent hs).2⟩
    have := (any_flying_iff b.tx).1 (h.silent hs).1
    exact (any_flying_iff q).2 (fly.trans this)
  silentCount := h.silentCount
  eventNo := h.eventNo
  counters := ⟨h.counters.1, drop, h.counters.2.2⟩

/-- R177. -/
theorem BusPort.enqueue_inOrder {b : BusPort} (h : b.InOrder) (f : Frame) : (b.enqueue f).InOrder := by
  have cap : Config.txCap = 12 := rfl
  unfold BusPort.enqueue
  split
  · next room =>
    exact h.withTx (n := b.txDrop) (by simp; omega) (by rw [filter_flying_append]) h.counters.2.1
  · next full =>
    have hb : b = { b with tx := b.tx } := rfl
    split
    · next c hc =>
      split
      · refine h.withTx ?_ (by rw [filter_flying_append, filter_flying_dropYoungest]) (satAdd_le _ _ _)
        have := dropYoungest_length hc
        have := h.tx
        simp only [List.length_append, List.length_singleton]
        omega
      · exact h.withTx h.tx rfl (satAdd_le _ _ _)
    · exact h.withTx h.tx rfl (satAdd_le _ _ _)

theorem BusPort.send_inOrder {b : BusPort} (h : b.InOrder) (dest : Nat) (m : Msg) : (b.send dest m).InOrder :=
  BusPort.enqueue_inOrder h _

/-- R181. -/
theorem BusPort.sendEvent_inOrder {b : BusPort} (h : b.InOrder) (e : Event) : (b.sendEvent e).InOrder := by
  have k := BusPort.send_inOrder h 0 (.event b.eventNo e)
  exact { rx := k.rx, tx := k.tx, oneFlying := k.oneFlying, active := k.active, silent := k.silent, silentCount := k.silentCount,
          eventNo := wrapSucc_le 255 _ h.eventNo, counters := k.counters }

theorem Plant.send_reaches {p₀ p : Plant} (h : Plant.Reaches p₀ p) {d : Nat} {m : Msg} :
    Plant.Reaches p₀ (p.send d m) := h.trans (.bus p fun k => BusPort.send_inOrder k d m)

theorem Plant.event_reaches {p₀ p : Plant} (h : Plant.Reaches p₀ p) {e : Event} : Plant.Reaches p₀ (p.event e) :=
  h.trans (.bus p fun k => BusPort.sendEvent_inOrder k e)

end Sys2Proof.Machine
end

