-- ==== Sys2Proof/Laws/RollTable.lean ====
section
/-! SUPPORT. The roll table (R1, R20): which numbers it holds, and that its operations keep it in order. -/
namespace Sys2Proof.Machine

/-- A roll number is held by no record. -/
theorem Plant.holderOf_none_iff (p : Plant) (n : Nat) :
    p.holderOf n = none ↔ ∀ s ∈ p.rolls, ∀ r, s.roll = some r → r.num ≠ some n := by
  unfold Plant.holderOf Plant.records
  rw [Option.map_eq_none_iff, List.find?_eq_none]
  constructor
  · intro h s hs r hr hn
    obtain ⟨i, hi, rfl⟩ := List.mem_iff_getElem.1 hs
    have hm : (p.rolls[i], i) ∈ p.rolls.zipIdx := by
      rw [List.mem_zipIdx_iff_getElem?]; exact List.getElem?_eq_getElem hi
    refine h ({ idx := i, gen := p.rolls[i].gen }, r) ?_ (by simp [hn])
    exact List.mem_filterMap.2 ⟨(p.rolls[i], i), hm, by simp [hr]⟩
  · intro h x hx
    obtain ⟨⟨s, i⟩, hs, e⟩ := List.mem_filterMap.1 hx
    simp only [Option.map_eq_some_iff] at e
    obtain ⟨r, hr, rfl⟩ := e
    rw [List.mem_zipIdx_iff_getElem?] at hs
    have := h s (List.mem_of_getElem? hs) r hr
    simpa using this

/-- The slots of a table after a change of one record that keeps its number. -/
theorem mem_modify_roll {l : List RollSlot} {i : Nat} {g : Nat} {f : Roll → Roll} {s : RollSlot}
    (h : s ∈ l.modify i fun s => if s.gen = g then { s with roll := s.roll.map f } else s) :
    s ∈ l ∨ ∃ t ∈ l, s = { t with roll := t.roll.map f } := by
  obtain ⟨j, hj, rfl⟩ := List.mem_iff_getElem.1 h
  rw [List.getElem_modify]
  split
  · split
    · exact .inr ⟨_, List.getElem_mem _, rfl⟩
    · exact .inl (List.getElem_mem _)
  · exact .inl (List.getElem_mem _)

theorem Plant.holderOf_modRoll {p : Plant} {k : Handle} {f : Roll → Roll} (hf : ∀ r, (f r).num = r.num) {n : Nat}
    (h : p.holderOf n = none) : (p.modRoll k f).holderOf n = none := by
  rw [Plant.holderOf_none_iff] at h ⊢
  intro s hs r hr
  rcases mem_modify_roll hs with hs | ⟨t, ht, rfl⟩
  · exact h s hs r hr
  · obtain ⟨q, hq, rfl⟩ := Option.map_eq_some_iff.1 hr
    rw [hf]
    exact h t ht q hq

end Sys2Proof.Machine
end

