-- ==== Sys2Proof/Laws/Orders.lean ====
section
/-! SUPPORT. What `Plant.Reaches` keeps: time, the pin and the loader; the bus port, the roll table and the scheduler in
order (R1, R20, R88, R174 to R181). -/
namespace Sys2Proof.Machine

theorem Plant.Reaches.clock {p q : Plant} (h : Plant.Reaches p q) : q.clock = p.clock := by
  induction h with
  | refl _ => rfl
  | trans _ _ a b => exact b.trans a
  | tables clock _ _ _ _ _ _ => exact clock
  | task _ => rfl
  | modRoll _ _ _ => rfl
  | name _ _ _ _ => rfl
  | create made _ =>
    unfold Plant.createRoll at made
    split at made
    · cases made
    · split at made <;> cases made; rfl
  | free _ _ => rfl
  | bus _ _ => rfl

theorem Plant.Reaches.pressRun {p q : Plant} (h : Plant.Reaches p q) : q.pressRun = p.pressRun := by
  induction h with
  | refl _ => rfl
  | trans _ _ a b => exact b.trans a
  | tables _ pin _ _ _ _ _ => exact pin
  | task _ => rfl
  | modRoll _ _ _ => rfl
  | name _ _ _ _ => rfl
  | create made _ =>
    unfold Plant.createRoll at made
    split at made
    · cases made
    · split at made <;> cases made; rfl
  | free _ _ => rfl
  | bus _ _ => rfl

theorem Plant.Reaches.loader {p q : Plant} (h : Plant.Reaches p q) : q.loader = p.loader := by
  induction h with
  | refl _ => rfl
  | trans _ _ a b => exact b.trans a
  | tables _ _ loader _ _ _ _ => exact loader
  | task _ => rfl
  | modRoll _ _ _ => rfl
  | name _ _ _ _ => rfl
  | create made _ =>
    unfold Plant.createRoll at made
    split at made
    · cases made
    · split at made <;> cases made; rfl
  | free _ _ => rfl
  | bus _ _ => rfl

theorem Plant.Reaches.busInOrder {p q : Plant} (h : Plant.Reaches p q) (o : p.bus.InOrder) : q.bus.InOrder := by
  induction h with
  | refl _ => exact o
  | trans _ _ a b => exact b (a o)
  | tables _ _ _ bus _ _ _ => rwa [bus]
  | task _ => exact o
  | modRoll _ _ _ => exact o
  | name _ _ _ _ => exact o
  | create made _ =>
    unfold Plant.createRoll at made
    split at made
    · cases made
    · split at made <;> cases made; exact o
  | free _ _ => exact o
  | bus _ order => exact order o

/-! ### The roll table -/

/-- Each slot keeps its generation and its record's number, or holds nothing: the table stays in order. -/
theorem RollsInOrder.thin {l m : List RollSlot} (o : RollsInOrder l) (len : m.length = l.length)
    (slot : ∀ (i : Nat) (s : RollSlot), m[i]? = some s → ∃ t, l[i]? = some t ∧ s.gen ≤ 255 ∧
      (s.roll = none ∨ s.roll.map (·.num) = t.roll.map (·.num))) : RollsInOrder m where
  size := len.trans o.size
  generations s hs := by
    obtain ⟨i, hi, rfl⟩ := List.mem_iff_getElem.1 hs
    obtain ⟨_, _, g, _⟩ := slot i _ (List.getElem?_eq_getElem hi)
    exact g
  distinct i j s t r q n hi hj hs ht hr hq := by
    obtain ⟨s', hi', _, es⟩ := slot i s hi
    obtain ⟨t', hj', _, et⟩ := slot j t hj
    rw [hs] at es
    rw [ht] at et
    simp only [reduceCtorEq, Option.map_some, false_or] at es et
    obtain ⟨r', hr', er⟩ := Option.map_eq_some_iff.1 es.symm
    obtain ⟨q', hq', eq⟩ := Option.map_eq_some_iff.1 et.symm
    exact o.distinct i j s' t' r' q' n hi' hj' hr' hq' (er.trans hr) (eq.trans hq)

theorem RollsInOrder.modRoll {p : Plant} (o : RollsInOrder p.rolls) {h : Handle} {f : Roll → Roll}
    (num : ∀ r, (f r).num = r.num) : RollsInOrder (p.modRoll h f).rolls := by
  refine o.thin (by simp [Plant.modRoll]) fun i s hs => ?_
  simp only [Plant.modRoll, List.getElem?_modify] at hs
  obtain ⟨t, ht, rfl⟩ := Option.map_eq_some_iff.1 hs
  refine ⟨t, ht, ?_⟩
  have g := o.generations t (List.mem_of_getElem? ht)
  split
  · split
    · exact ⟨g, .inr (by cases t.roll <;> simp [num])⟩
    · exact ⟨g, .inr rfl⟩
  · exact ⟨g, .inr rfl⟩

theorem RollsInOrder.freeRoll {p : Plant} (o : RollsInOrder p.rolls) {h : Handle} :
    RollsInOrder (p.freeRoll h).rolls := by
  refine o.thin (by simp [Plant.freeRoll]) fun i s hs => ?_
  simp only [Plant.freeRoll, List.getElem?_modify] at hs
  obtain ⟨t, ht, rfl⟩ := Option.map_eq_some_iff.1 hs
  refine ⟨t, ht, ?_⟩
  have g := o.generations t (List.mem_of_getElem? ht)
  split
  · split
    · exact ⟨by unfold wrapSucc; split <;> simp <;> omega, .inl rfl⟩
    · exact ⟨g, .inr rfl⟩
  · exact ⟨g, .inr rfl⟩

/-- A record at one index takes a number that no record holds: the table stays in order. -/
theorem RollsInOrder.put {l m : List RollSlot} (o : RollsInOrder l) {k : Nat} {num : Option Nat}
    (len : m.length = l.length)
    (fresh : ∀ n, num = some n → ∀ s ∈ l, ∀ r, s.roll = some r → r.num ≠ some n)
    (slot : ∀ (i : Nat) (s : RollSlot), m[i]? = some s → ∃ t, l[i]? = some t ∧ s.gen = t.gen ∧
      (s.roll.map (·.num) = t.roll.map (·.num) ∨ i = k ∧ ∀ r, s.roll = some r → r.num = num)) : RollsInOrder m where
  size := len.trans o.size
  generations s hs := by
    obtain ⟨i, hi, rfl⟩ := List.mem_iff_getElem.1 hs
    obtain ⟨t, ht, g, _⟩ := slot i _ (List.getElem?_eq_getElem hi)
    rw [g]
    exact o.generations t (List.mem_of_getElem? ht)
  distinct i j s t r q n hi hj hs ht hr hq := by
    obtain ⟨s', hi', _, es⟩ := slot i s hi
    obtain ⟨t', hj', _, et⟩ := slot j t hj
    rcases es with es | ⟨rfl, es⟩ <;> rcases et with et | ⟨rfl, et⟩
    · rw [hs] at es
      rw [ht] at et
      obtain ⟨r', hr', er⟩ := Option.map_eq_some_iff.1 es.symm
      obtain ⟨q', hq', eq⟩ := Option.map_eq_some_iff.1 et.symm
      exact o.distinct i j s' t' r' q' n hi' hj' hr' hq' (er.trans hr) (eq.trans hq)
    · rw [hs] at es
      obtain ⟨r', hr', er⟩ := Option.map_eq_some_iff.1 es.symm
      exact absurd (er.trans hr) (fresh n ((et q ht).symm.trans hq) s' (List.mem_of_getElem? hi') r' hr')
    · rw [ht] at et
      obtain ⟨q', hq', eq⟩ := Option.map_eq_some_iff.1 et.symm
      exact absurd (eq.trans hq) (fresh n ((es r hs).symm.trans hr) t' (List.mem_of_getElem? hj') q' hq')
    · rfl

theorem RollsInOrder.name {p : Plant} (o : RollsInOrder p.rolls) {h : Handle} {n : Nat} (fresh : p.holderOf n = none) :
    RollsInOrder (p.modRoll h fun r => { r with num := some n, unknown := false }).rolls := by
  refine o.put (k := h.idx) (num := some n) (by simp [Plant.modRoll])
    (fun m hm => by cases hm; exact (p.holderOf_none_iff n).1 fresh) fun i s hs => ?_
  simp only [Plant.modRoll, List.getElem?_modify] at hs
  obtain ⟨t, ht, rfl⟩ := Option.map_eq_some_iff.1 hs
  refine ⟨t, ht, ?_⟩
  split
  · next hi =>
    split
    · refine ⟨rfl, .inr ⟨hi.symm, fun r hr => ?_⟩⟩
      obtain ⟨q, _, rfl⟩ := Option.map_eq_some_iff.1 hr
      rfl
    · exact ⟨rfl, .inl rfl⟩
  · exact ⟨rfl, .inl rfl⟩

theorem RollsInOrder.create {p q : Plant} {h : Handle} {r : Roll} (o : RollsInOrder p.rolls)
    (made : p.createRoll r = some (h, q)) (fresh : ∀ n, r.num = some n → p.holderOf n = none) :
    RollsInOrder q.rolls := by
  unfold Plant.createRoll at made
  split at made
  · cases made
  · next i _ =>
    split at made
    · cases made
    · next s hs =>
      cases made
      refine o.put (k := i) (num := r.num) (by simp) (fun n hn => (p.holderOf_none_iff n).1 (fresh n hn))
        fun j t ht => ?_
      by_cases hj : i = j
      · subst hj
        have hi : i < p.rolls.length := (List.getElem?_eq_some_iff.1 hs).1
        rw [List.getElem?_set_self hi] at ht
        cases ht
        exact ⟨s, hs, rfl, .inr ⟨rfl, fun k hk => by cases hk; rfl⟩⟩
      · rw [List.getElem?_set_ne hj] at ht
        exact ⟨t, ht, rfl, .inl rfl⟩

theorem Plant.Reaches.rollsInOrder {p q : Plant} (h : Plant.Reaches p q) (o : RollsInOrder p.rolls) :
    RollsInOrder q.rolls := by
  induction h with
  | refl _ => exact o
  | trans _ _ a b => exact b (a o)
  | tables _ _ _ _ rolls _ _ => rwa [rolls]
  | task _ => exact o
  | modRoll _ _ num => exact o.modRoll num
  | name _ _ _ fresh => exact o.name fresh
  | create made fresh => exact o.create made fresh
  | free _ _ => exact o.freeRoll
  | bus _ _ => exact o

/-! ### The scheduler -/

theorem taskSucc_range {n : Nat} (h : 1 ≤ n ∧ n ≤ 255) : 1 ≤ taskSucc n ∧ taskSucc n ≤ 255 := by
  unfold taskSucc; split <;> omega

/-- The place of a task number after `k` steps of the counter. -/
def numberAt (n k : Nat) : Nat := (n - 1 + k) % 255 + 1

theorem numberAt_succ (n k : Nat) : taskSucc (numberAt n k) = numberAt n (k + 1) := by
  unfold taskSucc numberAt; split <;> omega

theorem numberAt_inj {n j k : Nat} (hj : j < 255) (hk : k < 255) (h : numberAt n j = numberAt n k) : j = k := by
  unfold numberAt at h; omega

theorem freeTaskNumber_range (q : List Task) (k n : Nat) (h : 1 ≤ n ∧ n ≤ 255) :
    1 ≤ freeTaskNumber q k n ∧ freeTaskNumber q k n ≤ 255 := by
  induction k generalizing n with
  | zero => exact h
  | succ k ih => unfold freeTaskNumber; split; · exact ih _ (taskSucc_range h)
                 · exact h

/-- A number that is still held after `k` passes means that all `k` numbers passed over are held. -/
theorem freeTaskNumber_held (q : List Task) (n k j : Nat)
    (h : (q.any fun t => t.num == freeTaskNumber q k (numberAt n j)) = true) :
    ∀ i, i < k → numberAt n (j + i) ∈ q.map (·.num) := by
  induction k generalizing j with
  | zero => intro i hi; omega
  | succ k ih =>
    intro i hi
    unfold freeTaskNumber at h
    split at h
    · next c =>
      cases i with
      | zero =>
        obtain ⟨t, ht, e⟩ := List.any_eq_true.1 c
        exact List.mem_map.2 ⟨t, ht, by simpa using e⟩
      | succ i =>
        rw [numberAt_succ] at h
        have := ih (j + 1) h i (by omega)
        rwa [show j + (i + 1) = j + 1 + i by omega]
    · next c => exact absurd h c

/-- With at most 254 tasks in the queue the number found is free (R88). -/
theorem freeTaskNumber_free (q : List Task) (n : Nat) (hn : 1 ≤ n ∧ n ≤ 255) (hq : q.length < 255) :
    freeTaskNumber q 255 n ∉ q.map (·.num) := by
  intro hm
  have e : numberAt n 0 = n := by unfold numberAt; omega
  have held := freeTaskNumber_held q n 255 0 (by
    rw [e]
    obtain ⟨t, ht, et⟩ := List.mem_map.1 hm
    exact List.any_eq_true.2 ⟨t, ht, by simpa using et⟩)
  have sub : (List.range 255).map (numberAt n) ⊆ q.map (·.num) := by
    intro x hx
    obtain ⟨i, hi, rfl⟩ := List.mem_map.1 hx
    simpa using held i (List.mem_range.1 hi)
  have nodup : ((List.range 255).map (numberAt n)).Nodup :=
    List.Nodup.map_on (fun a ha b hb hab => numberAt_inj (List.mem_range.1 ha) (List.mem_range.1 hb) hab)
      List.nodup_range
  have := (nodup.subperm sub).length_le
  simp at this
  omega

theorem Plant.Reaches.schedInOrder {p q : Plant} (h : Plant.Reaches p q) (o : p.sched.InOrder) : q.sched.InOrder := by
  induction h with
  | refl _ => exact o
  | trans _ _ a b => exact b (a o)
  | tables _ _ _ _ _ next queue =>
    have len := queue.length_le
    simp only [List.length_map] at len
    exact {
      size := Nat.le_trans len o.size
      distinct := o.distinct.sublist queue
      numbers := fun t ht => by
        have hm := queue.subset (List.mem_map_of_mem (f := (·.num)) ht)
        obtain ⟨u, hu, e⟩ := List.mem_map.1 hm
        rw [← e]
        exact o.numbers u hu
      next := by rw [next]; exact o.next }
  | @task p r room =>
    have range := freeTaskNumber_range p.sched.queue 255 p.sched.next o.next
    have free := freeTaskNumber_free p.sched.queue p.sched.next o.next (by omega)
    exact {
      size := by simp only [List.length_append, List.length_singleton]; omega
      distinct := by
        simp only [List.map_append, List.map_cons, List.map_nil]
        refine List.Nodup.append o.distinct (List.nodup_singleton _) ?_
        simpa [List.disjoint_singleton, Plant.newTask] using free
      numbers := fun t ht => by
        rcases List.mem_append.1 ht with ht | ht
        · exact o.numbers t ht
        · rw [List.mem_singleton.1 ht]; exact range
      next := taskSucc_range range }
  | modRoll _ _ _ => exact o
  | name _ _ _ _ => exact o
  | create made _ =>
    unfold Plant.createRoll at made
    split at made
    · cases made
    · split at made <;> cases made; exact o
  | free _ _ => exact o
  | bus _ _ => exact o

end Sys2Proof.Machine
end

