-- ==== Sys2Proof/Laws/Port.lean ====
section
/-! SUPPORT. Receiving, attempts and SILENT keep the bus port in order (R174 to R179). -/
namespace Sys2Proof.Machine

theorem argMin_mem {α : Type} {key : α → List Nat} {l : List α} {x : α} (h : argMin key l = some x) : x ∈ l := by
  induction l generalizing x with
  | nil => cases h
  | cons a l ih =>
    unfold argMin at h
    split at h
    · cases h; exact List.mem_cons_self
    · next y hy =>
      split at h <;> cases h
      · exact List.mem_cons_of_mem _ (ih hy)
      · exact List.mem_cons_self

theorem argMin_none {α : Type} {key : α → List Nat} {l : List α} : argMin key l = none ↔ l = [] := by
  cases l with
  | nil => simp [argMin]
  | cons a l =>
    simp only [argMin, reduceCtorEq, iff_false]
    split
    · simp
    · split <;> simp

theorem filter_map_land (q : List TxEntry) :
    ((q.map fun e => { e with flying := false }).filter (·.flying)).length = 0 := by
  induction q with
  | nil => rfl
  | cons e q ih => simp

theorem BusPort.keep_inOrder {b : BusPort} (h : b.InOrder) (f : Frame) : (b.keep f).InOrder := by
  unfold BusPort.keep
  split
  · split
    · next room =>
      have room : b.rx.length < 16 := room
      exact { h with rx := by simp only [List.length_append, List.length_singleton]; omega }
    · exact { h with counters := ⟨satAdd_le _ _ _, h.counters.2⟩ }
  · exact h

/-- R176. -/
theorem BusPort.receive_inOrder {b : BusPort} (h : b.InOrder) (line : List Byte) : (b.receive line).InOrder := by
  unfold BusPort.receive
  split
  · exact { h with }
  split
  · exact { h with counters := ⟨h.counters.1, h.counters.2.1, satAdd_le _ _ _, h.counters.2.2.2⟩ }
  · next f _ => exact { BusPort.keep_inOrder h f with }

theorem filter_flying_modify (q : List TxEntry) (i : Nat) (h : q.any (·.flying) = false) :
    ((q.modify i fun e => { e with flying := true }).filter (·.flying)).length ≤ 1 := by
  induction q generalizing i with
  | nil => simp
  | cons e q ih =>
    simp only [List.any_cons, Bool.or_eq_false_iff] at h
    have hq : (q.filter (·.flying)).length = 0 := (any_flying_iff q).1 h.2
    cases i with
    | zero => simp [hq]
    | succ i => simpa [h.1] using ih i h.2

/-- R174. -/
theorem BusPort.startAttempt_inOrder {b : BusPort} (h : b.InOrder) : b.startAttempt.InOrder := by
  unfold BusPort.startAttempt
  split
  · next c =>
    split
    · exact { h with
        tx := by simpa using h.tx
        oneFlying := filter_flying_modify _ _ c.2.2
        silent := fun hs => absurd (c.2.1.symm.trans hs) (by simp) }
    · exact h
  · exact h

theorem BusPort.land_inOrder {b : BusPort} (h : b.InOrder) : b.land.InOrder :=
  { h with
    tx := by simpa [BusPort.land] using h.tx
    oneFlying := by have := filter_map_land b.tx; unfold BusPort.land; simp only [this]; omega
    silent := fun hs => ⟨(any_flying_iff _).2 (filter_map_land b.tx), (h.silent hs).2⟩ }

/-- R175. -/
theorem BusPort.succeed_inOrder {b : BusPort} (h : b.InOrder) : b.succeed.InOrder := by
  unfold BusPort.succeed
  split
  · exact h
  · next e he =>
    have fly : b.inFlight = true := by
      have := List.find?_some he
      exact List.any_eq_true.2 ⟨e, List.mem_of_find?_eq_some he, this⟩
    have act : b.link = .active := by
      cases hl : b.link with
      | active => rfl
      | silent => rw [(h.silent hl).1] at fly; cases fly
    have none : ((b.tx.filter fun e => !e.flying).filter (·.flying)) = [] := by
      rw [List.filter_filter, List.filter_eq_nil_iff]; simp
    have k : ({ b with tx := b.tx.filter fun e => !e.flying, failures := 0 } : BusPort).InOrder :=
      { h with
        tx := Nat.le_trans (List.length_filter_le _ _) h.tx
        oneFlying := by simp only [none]; simp
        active := fun hl => ⟨by simp, (h.active hl).2⟩
        silent := fun hs => absurd (act.symm.trans hs) (by simp)
        silentCount := fun hs => absurd (act.symm.trans hs) (by simp) }
    dsimp only
    split
    · exact BusPort.keep_inOrder k _
    · exact k

theorem BusPort.enterSilent_inOrder {b : BusPort} (h : b.InOrder) (now : Ticks) : (b.enterSilent now).InOrder := by
  unfold BusPort.enterSilent
  split
  · next c =>
    exact absurd (h.active c.2).1 (Nat.not_lt.2 c.1)
  · exact h

theorem BusPort.fail_inOrder {b : BusPort} (h : b.InOrder) (now : Ticks) : (b.fail now).InOrder := by
  unfold BusPort.fail
  split
  · next fly =>
    have l := BusPort.land_inOrder h
    have act : b.link = .active := by
      cases hl : b.link with
      | active => rfl
      | silent => rw [(h.silent hl).1] at fly; cases fly
    have lt := (h.active act).1
    have none : ({ b.land with failures := satAdd Config.failureCap b.failures 1 } : BusPort).inFlight = false :=
      (any_flying_iff _).2 (filter_map_land b.tx)
    unfold BusPort.enterSilent
    split
    · next c =>
      exact { l with
        active := fun hl => by cases hl
        silent := fun _ => ⟨none, rfl⟩
        silentCount := fun _ => Nat.le_antisymm (satAdd_le _ _ _) c.1
        counters := ⟨l.counters.1, l.counters.2.1, l.counters.2.2.1, l.counters.2.2.2.1, satAdd_le _ _ _⟩ }
    · next c =>
      have c : ¬(8 ≤ satAdd Config.failureCap b.failures 1 ∧ b.link = .active) := c
      exact { l with
        active := fun hl => ⟨Nat.lt_of_not_le fun k => c ⟨k, act⟩, (h.active act).2⟩
        silent := fun hs => absurd (act.symm.trans hs) (by simp)
        silentCount := fun hs => absurd (act.symm.trans hs) (by simp) }
  · exact h

theorem BusPort.endSilent_inOrder {b : BusPort} (h : b.InOrder) (now : Ticks) : (b.endSilent now).InOrder := by
  unfold BusPort.endSilent
  split
  · exact { h with
      active := fun _ => ⟨by simp, rfl⟩
      silent := fun hs => by cases hs
      silentCount := fun hs => by cases hs }
  · exact h

end Sys2Proof.Machine
end

