-- ==== Sys2Proof/Laws/ReachTrack.lean ====
section
/-! SUPPORT. What the operations of Machine/Track.lean can do to the plant. -/
namespace Sys2Proof.Machine

theorem Plant.setPoint_reaches {p₀ p : Plant} (h : Plant.Reaches p₀ p) {x_ : Nat} {v_ : Point} :
    Plant.Reaches p₀ (p.setPoint x_ v_) := by
  unfold Plant.setPoint
  repeat' first
    | with_reducible assumption | with_reducible apply Plant.modStop_reaches | split | dsimp only

theorem Plant.freeSection_reaches {p₀ p : Plant} (h : Plant.Reaches p₀ p) {n_ : Nat} :
    Plant.Reaches p₀ (p.freeSection n_) := by
  unfold Plant.freeSection
  repeat' first
    | with_reducible assumption | with_reducible apply Plant.setPoint_reaches | with_reducible apply Plant.modSection_reaches | with_reducible apply forEach_reaches | split | intro _ _ _ | dsimp only

theorem Plant.releaseSections_reaches {p₀ p : Plant} (h : Plant.Reaches p₀ p) {cart_ : Nat} {secs_ : List Nat} :
    Plant.Reaches p₀ (p.releaseSections cart_ secs_) := by
  unfold Plant.releaseSections
  repeat' first
    | with_reducible assumption | with_reducible apply Plant.freeSection_reaches | with_reducible apply forEach_reaches | split | intro _ _ _ | dsimp only

theorem Plant.blockSection_reaches {p₀ p : Plant} (h : Plant.Reaches p₀ p) {n_ : Nat} {cause_ : Nat} :
    Plant.Reaches p₀ (p.blockSection n_ cause_) := by
  unfold Plant.blockSection
  repeat' first
    | ((try lift_lets); intro q; first | (refine (fun (hq : Plant.Reaches p₀ q) => ?_) ?_; rotate_left; subst q; rotate_right; clear_value q) | clear_value q) | with_reducible assumption | with_reducible apply Plant.modSection_reaches | with_reducible apply Plant.modCart_reaches | with_reducible apply Plant.releaseSections_reaches | with_reducible apply Plant.event_reaches | split | dsimp only

theorem Plant.claimStop_reaches {p₀ p : Plant} (h : Plant.Reaches p₀ p) {x_ : Nat} {cart_ : Nat} :
    Plant.Reaches p₀ (p.claimStop x_ cart_) := by
  unfold Plant.claimStop
  repeat' first
    | with_reducible assumption | with_reducible apply Plant.modStop_reaches | split | dsimp only

theorem Plant.unclaim_reaches {p₀ p : Plant} (h : Plant.Reaches p₀ p) {x_ : Nat} {cart_ : Nat} :
    Plant.Reaches p₀ (p.unclaim x_ cart_) := by
  unfold Plant.unclaim
  repeat' first
    | with_reducible assumption | with_reducible apply Plant.modStop_reaches | split | dsimp only

theorem Plant.unclaimLeg_reaches {p₀ p : Plant} (h : Plant.Reaches p₀ p) {cart : Nat} {l : Option Leg} :
    Plant.Reaches p₀ (p.unclaimLeg cart l) := by
  cases l with
  | none => exact h
  | some l => exact Plant.unclaim_reaches h

theorem Plant.standAt_reaches {p₀ p : Plant} (h : Plant.Reaches p₀ p) {cart_ : Nat} {x_ : Nat} :
    Plant.Reaches p₀ (p.standAt cart_ x_) := by
  unfold Plant.standAt
  repeat' first
    | with_reducible assumption | with_reducible apply Plant.modStop_reaches | with_reducible apply Plant.modCart_reaches | split | dsimp only

theorem Plant.leaveStop_reaches {p₀ p : Plant} (h : Plant.Reaches p₀ p) {cart_ : Nat} {x_ : Nat} :
    Plant.Reaches p₀ (p.leaveStop cart_ x_) := by
  unfold Plant.leaveStop
  repeat' first
    | ((try lift_lets); intro q; first | (refine (fun (hq : Plant.Reaches p₀ q) => ?_) ?_; rotate_left; subst q; rotate_right; clear_value q) | clear_value q) | with_reducible assumption | with_reducible apply Plant.modStop_reaches | split | dsimp only

theorem Plant.leaveOtherStops_reaches {p₀ p : Plant} (h : Plant.Reaches p₀ p) {cart_ : Nat} {here_ : Option Nat} :
    Plant.Reaches p₀ (p.leaveOtherStops cart_ here_) := by
  unfold Plant.leaveOtherStops
  repeat' first
    | with_reducible assumption | with_reducible apply Plant.leaveStop_reaches | with_reducible apply forEach_reaches | split | intro _ _ _ | dsimp only

theorem Plant.grant_reaches {p₀ p : Plant} (h : Plant.Reaches p₀ p) {c_ : Cart} {n_ : Nat} :
    Plant.Reaches p₀ (p.grant c_ n_) := by
  unfold Plant.grant
  repeat' first
    | ((try lift_lets); intro q; first | (refine (fun (hq : Plant.Reaches p₀ q) => ?_) ?_; rotate_left; subst q; rotate_right; clear_value q) | clear_value q) | with_reducible assumption | with_reducible apply Plant.modSection_reaches | with_reducible apply Plant.modCart_reaches | with_reducible apply Plant.setPoint_reaches | with_reducible apply Plant.depart_reaches | with_reducible apply Plant.modStop_reaches | with_reducible apply Plant.arrive_reaches | split | dsimp only

theorem Plant.arbiterRound_opt {p₀ p q : Plant} (e : p.arbiterRound = some q) (h : Plant.Reaches p₀ p) :
    Plant.Reaches p₀ q := by
  unfold Plant.arbiterRound at e
  obtain ⟨cn, _, rfl⟩ := Option.map_eq_some_iff.1 e
  exact Plant.grant_reaches h

theorem Plant.arbitrate_reaches {p₀ p : Plant} (h : Plant.Reaches p₀ p) : Plant.Reaches p₀ p.arbitrate :=
  rounds_reaches h fun _ _ h e => Plant.arbiterRound_opt e h

theorem Plant.settleCart_reaches {p₀ p : Plant} (h : Plant.Reaches p₀ p) {c_ : Cart} :
    Plant.Reaches p₀ (p.settleCart c_) := by
  unfold Plant.settleCart
  repeat' first
    | with_reducible assumption | with_reducible apply Plant.modCart_reaches | split | dsimp only

theorem Plant.settleLevels_reaches {p₀ p : Plant} (h : Plant.Reaches p₀ p) :
    Plant.Reaches p₀ (p.settleLevels) := by
  unfold Plant.settleLevels
  repeat' first
    | with_reducible assumption | with_reducible apply Plant.settleCart_reaches | with_reducible apply Plant.setLevels_reaches | with_reducible apply forEach_reaches | split | intro _ _ _ | dsimp only

theorem Plant.replaceLeg_reaches {p₀ p : Plant} (h : Plant.Reaches p₀ p) {c_ : Cart} {leg_ : Leg} :
    Plant.Reaches p₀ (p.replaceLeg c_ leg_) := by
  unfold Plant.replaceLeg
  repeat' first
    | ((try lift_lets); intro q; first | (refine (fun (hq : Plant.Reaches p₀ q) => ?_) ?_; rotate_left; subst q; rotate_right; clear_value q) | clear_value q) | with_reducible assumption | with_reducible apply Plant.claimStop_reaches | with_reducible apply Plant.modCart_reaches | with_reducible apply Plant.unclaimLeg_reaches | with_reducible apply Plant.arrive_reaches | with_reducible apply Plant.setPoint_reaches | with_reducible apply Plant.unclaim_reaches | with_reducible apply Plant.releaseSections_reaches | split | dsimp only

theorem Plant.acceptLeg_reaches {p₀ p : Plant} (h : Plant.Reaches p₀ p) {c_ : Cart} {leg_ : Leg} :
    Plant.Reaches p₀ (p.acceptLeg c_ leg_) := by
  unfold Plant.acceptLeg
  repeat' first
    | with_reducible assumption | with_reducible apply Plant.modCart_reaches | with_reducible apply Plant.claimStop_reaches | with_reducible apply Plant.unclaimLeg_reaches | with_reducible apply Plant.replaceLeg_reaches | split | dsimp only

theorem Plant.giveLeg_reaches {p₀ p : Plant} (h : Plant.Reaches p₀ p) {cart_ : Nat} {leg_ : Leg} :
    Plant.Reaches p₀ (p.giveLeg cart_ leg_).1 := by
  unfold Plant.giveLeg
  repeat' first
    | with_reducible assumption | with_reducible apply Plant.acceptLeg_reaches | split | dsimp only

theorem Plant.giveLeg_pair {p₀ p p₁ : Plant} {cart_ : Nat} {leg_ : Leg} {b : Bool} (e : (p.giveLeg cart_ leg_) = (p₁, b))
    (h : Plant.Reaches p₀ p) : Plant.Reaches p₀ p₁ := by
  have k := Plant.giveLeg_reaches h (cart_ := cart_) (leg_ := leg_)
  rwa [e] at k

theorem Plant.giveParkLeg_reaches {p₀ p : Plant} (h : Plant.Reaches p₀ p) {cart_ : Nat} :
    Plant.Reaches p₀ (p.giveParkLeg cart_) := by
  unfold Plant.giveParkLeg
  repeat' first
    | with_reducible assumption | with_reducible apply Plant.giveLeg_reaches | with_reducible refine Plant.giveLeg_pair (by assumption) ?_ | split | dsimp only

theorem Plant.warningOff_reaches {p₀ p : Plant} (h : Plant.Reaches p₀ p) {c : Cart} :
    Plant.Reaches p₀ (p.warningOff c) := by
  unfold Plant.warningOff
  split
  · exact Plant.modStop_reaches h
  · exact h

theorem Plant.cancel_reaches {p₀ p : Plant} (h : Plant.Reaches p₀ p) {cart_ : Nat} :
    Plant.Reaches p₀ (p.cancel cart_) := by
  unfold Plant.cancel
  repeat' first
    | ((try lift_lets); intro q; first | (refine (fun (hq : Plant.Reaches p₀ q) => ?_) ?_; rotate_left; subst q; rotate_right; clear_value q) | clear_value q) | with_reducible assumption | with_reducible apply Plant.releaseSections_reaches | with_reducible apply Plant.unclaimLeg_reaches | with_reducible apply Plant.warningOff_reaches | with_reducible apply Plant.modCart_reaches | with_reducible apply Plant.giveParkLeg_reaches | split | dsimp only

theorem Plant.parkFreeCarts_reaches {p₀ p : Plant} (h : Plant.Reaches p₀ p) :
    Plant.Reaches p₀ (p.parkFreeCarts) := by
  unfold Plant.parkFreeCarts
  repeat' first
    | with_reducible assumption | with_reducible apply Plant.modCart_reaches | with_reducible apply Plant.giveParkLeg_reaches | with_reducible apply forEach_reaches | split | intro _ _ _ | dsimp only

end Sys2Proof.Machine
end

