-- ==== Sys2Proof/Laws/ReachTasks.lean ====
section
/-! SUPPORT. What the operations of Machine/Tasks.lean can do to the plant. -/
namespace Sys2Proof.Machine

theorem reclass_num (l : List Task) (t : Task) : (reclass l t).num = t.num := by
  unfold reclass; split <;> rfl

theorem Plant.refreshClasses_reaches {p₀ p : Plant} (h : Plant.Reaches p₀ p) : Plant.Reaches p₀ p.refreshClasses :=
  h.same rfl rfl rfl rfl rfl rfl (map_num_map _ _ (reclass_num _))

theorem Plant.createTask_reaches {p₀ p : Plant} (h : Plant.Reaches p₀ p) {r : TaskReq} :
    Plant.Reaches p₀ (p.createTask r).1 := by
  unfold Plant.createTask
  split
  · exact h
  split
  · exact h
  split
  · split
    · exact h
    · exact Plant.event_reaches (p := { p with sched := { p.sched with fullSent := true } })
        (h.same rfl rfl rfl rfl rfl rfl rfl)
  · next room =>
    exact Plant.refreshClasses_reaches (h.trans (.task (Nat.lt_of_not_le room)))

theorem Plant.createTask_pair {p₀ p p₁ : Plant} {r : TaskReq} {b : Option TaskRefusal} (e : p.createTask r = (p₁, b))
    (h : Plant.Reaches p₀ p) : Plant.Reaches p₀ p₁ := by
  have k := Plant.createTask_reaches h (r := r)
  rwa [e] at k

theorem Plant.removeTask_reaches {p₀ p : Plant} (h : Plant.Reaches p₀ p) {num : Nat} :
    Plant.Reaches p₀ (p.removeTask num) :=
  Plant.refreshClasses_reaches
    (h.trans (.tables rfl rfl rfl rfl rfl rfl (List.filter_sublist.map _) id))

theorem Plant.setNoSlot_reaches {p₀ p : Plant} (h : Plant.Reaches p₀ p) {num_ : Nat} :
    Plant.Reaches p₀ (p.setNoSlot num_) := by
  unfold Plant.setNoSlot
  repeat' first
    | ((try lift_lets); intro q; first | (refine (fun (hq : Plant.Reaches p₀ q) => ?_) ?_; rotate_left; subst q; rotate_right; clear_value q) | clear_value q) | with_reducible assumption | with_reducible apply Plant.modTask_reaches | with_reducible apply Plant.event_reaches | split | (intro _; rfl) | (intro _; dsimp only; split <;> rfl) | dsimp only

theorem Plant.backToWaiting_reaches {p₀ p : Plant} (h : Plant.Reaches p₀ p) {num_ : Nat} :
    Plant.Reaches p₀ (p.backToWaiting num_) := by
  unfold Plant.backToWaiting
  repeat' first
    | ((try lift_lets); intro q; first | (refine (fun (hq : Plant.Reaches p₀ q) => ?_) ?_; rotate_left; subst q; rotate_right; clear_value q) | clear_value q) | with_reducible assumption | with_reducible apply Plant.modTask_reaches | with_reducible apply Plant.modCart_reaches | split | (intro _; rfl) | (intro _; dsimp only; split <;> rfl) | dsimp only

theorem Plant.giveCarryLeg_reaches {p₀ p : Plant} (h : Plant.Reaches p₀ p) {num_ : Nat} :
    Plant.Reaches p₀ (p.giveCarryLeg num_) := by
  unfold Plant.giveCarryLeg
  repeat' first
    | with_reducible assumption | with_reducible apply Plant.giveLeg_reaches | with_reducible refine Plant.giveLeg_pair (by assumption) ?_ | split | dsimp only

theorem Plant.slotRound_opt {p₀ p q : Plant} (e : p.slotRound = some q) (h : Plant.Reaches p₀ p) :
    Plant.Reaches p₀ q := by
  unfold Plant.slotRound at e
  dsimp only at e
  split at e
  · cases e
  split at e
  · cases e
    refine forEach_reaches (h.same rfl rfl rfl rfl rfl rfl (map_num_map _ _ fun _ => rfl)) ?_
    intro p t h
    split
    · refine Plant.giveCarryLeg_reaches (Plant.modTask_reaches h ?_)
      exact fun _ => rfl
    · exact Plant.setNoSlot_reaches h
  · cases e

theorem Plant.serveSlots_reaches {p₀ p : Plant} (h : Plant.Reaches p₀ p) : Plant.Reaches p₀ p.serveSlots := by
  unfold Plant.serveSlots
  cases e : p.slotRound with
  | none => exact h
  | some q => exact Plant.slotRound_opt e h

theorem Plant.rechoose_reaches {p₀ p : Plant} (h : Plant.Reaches p₀ p) {num : Nat} :
    Plant.Reaches p₀ (p.rechoose num) := by
  unfold Plant.rechoose
  split
  · exact h
  · next t _ =>
    lift_lets
    intro loaded q
    have hq : Plant.Reaches p₀ q := Plant.serveSlots_reaches (Plant.modTask_reaches h fun _ => rfl)
    subst loaded
    clear_value q
    split
    · dsimp only
      split
      · refine Plant.giveCarryLeg_reaches (Plant.modTask_reaches hq ?_)
        exact fun _ => rfl
      · exact Plant.modTask_reaches hq fun _ => rfl
    · split
      · dsimp only
        split
        · refine Plant.giveCarryLeg_reaches (Plant.modTask_reaches hq ?_)
          exact fun _ => rfl
        · exact Plant.modTask_reaches hq fun _ => rfl
      · have hs := Plant.setNoSlot_reaches hq (num_ := num)
        dsimp only
        split
        · split
          · exact Plant.giveParkLeg_reaches hs
          · exact hs
        · have hb := Plant.backToWaiting_reaches hs (num_ := num)
          split
          · exact Plant.cancel_reaches hb
          · exact hb
    all_goals exact hq

theorem Plant.rechooseBound_reaches {p₀ p : Plant} (h : Plant.Reaches p₀ p) {x_ : Nat} :
    Plant.Reaches p₀ (p.rechooseBound x_) := by
  unfold Plant.rechooseBound
  repeat' first
    | with_reducible assumption | with_reducible apply Plant.rechoose_reaches | with_reducible apply forEach_reaches | split | intro _ _ _ | dsimp only

theorem Plant.askFromStop_reaches {p₀ p : Plant} (h : Plant.Reaches p₀ p) {x_ : Nat} {k_ : TaskKind} :
    Plant.Reaches p₀ (p.askFromStop x_ k_).1 := by
  unfold Plant.askFromStop
  repeat' first
    | ((try lift_lets); intro q; first | (refine (fun (hq : Plant.Reaches p₀ q) => ?_) ?_; rotate_left; subst q; rotate_right; clear_value q) | clear_value q) | with_reducible assumption | with_reducible apply Plant.createTask_reaches | with_reducible refine Plant.createTask_pair (by assumption) ?_ | split | dsimp only

theorem Plant.askFromStop_pair {p₀ p p₁ : Plant} {x_ : Nat} {k_ : TaskKind} {b : Asked} (e : (p.askFromStop x_ k_) = (p₁, b))
    (h : Plant.Reaches p₀ p) : Plant.Reaches p₀ p₁ := by
  have k := Plant.askFromStop_reaches h (x_ := x_) (k_ := k_)
  rwa [e] at k

theorem Plant.askOrPend_reaches {p₀ p : Plant} (h : Plant.Reaches p₀ p) {x_ : Nat} {k_ : TaskKind} :
    Plant.Reaches p₀ (p.askOrPend x_ k_) := by
  unfold Plant.askOrPend
  repeat' first
    | with_reducible assumption | with_reducible apply Plant.askFromStop_reaches | with_reducible apply Plant.modStop_reaches | with_reducible refine Plant.askFromStop_pair (by assumption) ?_ | split | dsimp only

theorem Plant.askUnload_reaches {p₀ p : Plant} (h : Plant.Reaches p₀ p) {s_ : Nat} {m_ : Arm} :
    Plant.Reaches p₀ (p.askUnload s_ m_).1 := by
  unfold Plant.askUnload
  repeat' first
    | ((try lift_lets); intro q; first | (refine (fun (hq : Plant.Reaches p₀ q) => ?_) ?_; rotate_left; subst q; rotate_right; clear_value q) | clear_value q) | with_reducible assumption | with_reducible apply Plant.createTask_reaches | with_reducible refine Plant.createTask_pair (by assumption) ?_ | split | dsimp only

theorem Plant.askUnload_pair {p₀ p p₁ : Plant} {s_ : Nat} {m_ : Arm} {b : Asked} (e : (p.askUnload s_ m_) = (p₁, b))
    (h : Plant.Reaches p₀ p) : Plant.Reaches p₀ p₁ := by
  have k := Plant.askUnload_reaches h (s_ := s_) (m_ := m_)
  rwa [e] at k

theorem Plant.unloadOrPend_reaches {p₀ p : Plant} (h : Plant.Reaches p₀ p) {s_ : Nat} {m_ : Arm} :
    Plant.Reaches p₀ (p.unloadOrPend s_ m_) := by
  unfold Plant.unloadOrPend
  repeat' first
    | with_reducible assumption | with_reducible apply Plant.askUnload_reaches | with_reducible apply Plant.modStand_reaches | with_reducible refine Plant.askUnload_pair (by assumption) ?_ | split | dsimp only

theorem Plant.askOnCart_reaches {p₀ p : Plant} (h : Plant.Reaches p₀ p) {cart_ : Nat} :
    Plant.Reaches p₀ (p.askOnCart cart_).1 := by
  unfold Plant.askOnCart
  replace h := Plant.serveSlots_reaches h
  revert h
  generalize p.serveSlots = p
  intro h
  repeat' first
    | ((try lift_lets); intro q; first | (refine (fun (hq : Plant.Reaches p₀ q) => ?_) ?_; rotate_left; subst q; rotate_right; clear_value q) | clear_value q) | with_reducible assumption | with_reducible apply Plant.createTask_reaches | with_reducible apply Plant.modTask_reaches | with_reducible apply Plant.modCart_reaches | with_reducible apply Plant.giveCarryLeg_reaches | with_reducible apply Plant.setNoSlot_reaches | with_reducible apply Plant.giveParkLeg_reaches | with_reducible refine Plant.createTask_pair (by assumption) ?_ | split | (intro _; rfl) | (intro _; dsimp only; split <;> rfl) | dsimp only

theorem Plant.askOnCart_pair {p₀ p p₁ : Plant} {cart_ : Nat} {b : Asked} (e : (p.askOnCart cart_) = (p₁, b))
    (h : Plant.Reaches p₀ p) : Plant.Reaches p₀ p₁ := by
  have k := Plant.askOnCart_reaches h (cart_ := cart_)
  rwa [e] at k

theorem Plant.onCartOrPend_reaches {p₀ p : Plant} (h : Plant.Reaches p₀ p) {cart_ : Nat} :
    Plant.Reaches p₀ (p.onCartOrPend cart_) := by
  unfold Plant.onCartOrPend
  repeat' first
    | ((try lift_lets); intro q; first | (refine (fun (hq : Plant.Reaches p₀ q) => ?_) ?_; rotate_left; subst q; rotate_right; clear_value q) | clear_value q) | with_reducible assumption | with_reducible apply Plant.askOnCart_reaches | with_reducible apply Plant.modCart_reaches | with_reducible refine Plant.askOnCart_pair (by assumption) ?_ | split | dsimp only

theorem Plant.offerOwn_reaches {p₀ p : Plant} (h : Plant.Reaches p₀ p) :
    Plant.Reaches p₀ (p.offerOwn) := by
  unfold Plant.offerOwn
  repeat' first
    | ((try lift_lets); intro q; first | (refine (fun (hq : Plant.Reaches p₀ q) => ?_) ?_; rotate_left; subst q; rotate_right; clear_value q) | clear_value q) | with_reducible assumption | with_reducible apply Plant.unloadOrPend_reaches | with_reducible apply Plant.onCartOrPend_reaches | with_reducible apply Plant.askOrPend_reaches | with_reducible apply forEach_reaches | split | intro _ _ _ | dsimp only

theorem Plant.offerStops_reaches {p₀ p : Plant} (h : Plant.Reaches p₀ p) {kinds : List StopKind} :
    Plant.Reaches p₀ (p.offerStops kinds) := by
  unfold Plant.offerStops forEach
  generalize p.stopCfgs = l
  suffices k : ∀ (l : List StopCfg) (pb : Plant × Bool), Plant.Reaches p₀ pb.1 →
      Plant.Reaches p₀ (l.foldl (fun (pb : Plant × Bool) c =>
        if pb.2 then pb
        else
          match (pb.1.stop? c.num).bind (·.pending) with
          | some k =>
            if kinds.contains c.kind then
              match pb.1.askFromStop c.num k with
              | (p, .created) => (p.modStop c.num fun s => { s with pending := none }, false)
              | (p, .full) => (p, true)
              | (p, .other) => (p, false)
            else pb
          | none => pb) pb).1 from k l (p, false) h
  intro l
  induction l with
  | nil => exact fun _ h => h
  | cons c cs ih =>
    intro pb h
    apply ih
    dsimp only
    split
    · exact h
    split
    · next k _ =>
      split
      · have a := Plant.askFromStop_reaches h (x_ := c.num) (k_ := k)
        split <;> rename_i e <;> rw [e] at a
        · exact Plant.modStop_reaches a
        · exact a
        · exact a
      · exact h
    · exact h

theorem Plant.offerPending_reaches {p₀ p : Plant} (h : Plant.Reaches p₀ p) :
    Plant.Reaches p₀ (p.offerPending) := by
  unfold Plant.offerPending
  repeat' first
    | with_reducible assumption | with_reducible apply Plant.offerOwn_reaches | with_reducible apply Plant.offerStops_reaches | split | dsimp only

theorem Plant.outIdle_reaches {p₀ p : Plant} (h : Plant.Reaches p₀ p) {link_ : Nat} :
    Plant.Reaches p₀ (p.outIdle link_) := by
  unfold Plant.outIdle
  repeat' first
    | with_reducible assumption | with_reducible apply Plant.modLink_reaches | split | dsimp only

theorem Plant.abandonCarrying_reaches {p₀ p : Plant} (h : Plant.Reaches p₀ p) {link_ : Nat} {h_ : Handle} {rollNo_ : Nat} :
    Plant.Reaches p₀ (p.abandonCarrying link_ h_ rollNo_) := by
  unfold Plant.abandonCarrying
  repeat' first
    | with_reducible assumption | with_reducible apply Plant.release_reaches | with_reducible apply Plant.send_reaches | with_reducible apply Plant.dropHolds_reaches | with_reducible apply Plant.outIdle_reaches | split | dsimp only

theorem Plant.recover_reaches {p₀ p : Plant} (h : Plant.Reaches p₀ p) {t_ : Task} :
    Plant.Reaches p₀ (p.recover t_) := by
  unfold Plant.recover
  repeat' first
    | with_reducible assumption | with_reducible apply Plant.askOrPend_reaches | with_reducible apply Plant.unloadOrPend_reaches | with_reducible apply Plant.onCartOrPend_reaches | split | dsimp only

theorem Plant.dropCart_reaches {p₀ p : Plant} (h : Plant.Reaches p₀ p) {t_ : Task} :
    Plant.Reaches p₀ (p.dropCart t_) := by
  unfold Plant.dropCart
  repeat' first
    | ((try lift_lets); intro q; first | (refine (fun (hq : Plant.Reaches p₀ q) => ?_) ?_; rotate_left; subst q; rotate_right; clear_value q) | clear_value q) | with_reducible assumption | with_reducible apply Plant.modCart_reaches | with_reducible apply Plant.cancel_reaches | split | dsimp only

theorem Plant.failTask_reaches {p₀ p : Plant} (h : Plant.Reaches p₀ p) {num_ : Nat} {why_ : TaskFailure} {rollNo_ : Nat} :
    Plant.Reaches p₀ (p.failTask num_ why_ rollNo_) := by
  unfold Plant.failTask
  repeat' first
    | ((try lift_lets); intro q; first | (refine (fun (hq : Plant.Reaches p₀ q) => ?_) ?_; rotate_left; subst q; rotate_right; clear_value q) | clear_value q) | with_reducible assumption | with_reducible apply Plant.event_reaches | with_reducible apply Plant.removeTask_reaches | with_reducible apply Plant.releaseStand_reaches | with_reducible apply Plant.abandonCarrying_reaches | with_reducible apply Plant.dropCart_reaches | with_reducible apply Plant.recover_reaches | with_reducible apply Plant.offerPending_reaches | split | dsimp only

theorem Plant.dropTask_reaches {p₀ p : Plant} (h : Plant.Reaches p₀ p) {num_ : Nat} :
    Plant.Reaches p₀ (p.dropTask num_) := by
  unfold Plant.dropTask
  repeat' first
    | with_reducible assumption | with_reducible apply Plant.removeTask_reaches | with_reducible apply Plant.dropCart_reaches | with_reducible apply Plant.offerPending_reaches | split | dsimp only

theorem Plant.holdsEnded_reaches {p₀ p : Plant} (h : Plant.Reaches p₀ p) {k : Handle} {n : Nat} :
    Plant.Reaches p₀ (p.holdsEnded k n) := by
  unfold Plant.holdsEnded
  apply Plant.dropHolds_reaches
  split
  · exact Plant.abandonCarrying_reaches h
  · exact h

theorem Plant.claimEnded_reaches {p₀ p : Plant} (h : Plant.Reaches p₀ p) {k : Handle} {c : Claim} {n : Nat} :
    Plant.Reaches p₀ (p.claimEnded k c n) := by
  have hq := Plant.holdsEnded_reaches h (k := k) (n := n)
  unfold Plant.claimEnded
  repeat' first
    | with_reducible assumption | with_reducible apply Plant.outIdle_reaches | split | dsimp only

theorem Plant.deleteRoll_reaches {p₀ p : Plant} (h : Plant.Reaches p₀ p) {h_ : Handle} :
    Plant.Reaches p₀ (p.deleteRoll h_) := by
  unfold Plant.deleteRoll
  repeat' first
    | ((try lift_lets); intro q; first | (refine (fun (hq : Plant.Reaches p₀ q) => ?_) ?_; rotate_left; subst q; rotate_right; clear_value q) | clear_value q) | with_reducible assumption | with_reducible apply Plant.freeRoll_reaches | with_reducible apply Plant.clearPlaces_reaches | with_reducible apply Plant.claimEnded_reaches | with_reducible apply Plant.failTask_reaches | split | dsimp only

theorem Plant.loseRoll_reaches {p₀ p : Plant} (h : Plant.Reaches p₀ p) {h_ : Handle} {place_ : Place} :
    Plant.Reaches p₀ (p.loseRoll h_ place_) := by
  unfold Plant.loseRoll
  repeat' first
    | with_reducible assumption | with_reducible apply Plant.deleteRoll_reaches | with_reducible apply Plant.event_reaches | split | dsimp only

theorem Plant.autoStow_reaches {p₀ p : Plant} (h : Plant.Reaches p₀ p) {x_ : Nat} :
    Plant.Reaches p₀ (p.autoStow x_) := by
  unfold Plant.autoStow
  repeat' first
    | with_reducible assumption | with_reducible apply Plant.askOrPend_reaches | split | dsimp only

theorem Plant.rollLands_reaches {p₀ p : Plant} (h : Plant.Reaches p₀ p) {l_ : LinkRec} {x_ : Nat} {h_ : Handle} :
    Plant.Reaches p₀ (p.rollLands l_ x_ h_) := by
  unfold Plant.rollLands
  repeat' first
    | ((try lift_lets); intro q; first | (refine (fun (hq : Plant.Reaches p₀ q) => ?_) ?_; rotate_left; subst q; rotate_right; clear_value q) | clear_value q) | with_reducible assumption | with_reducible apply Plant.send_reaches | with_reducible apply Plant.modLink_reaches | with_reducible apply Plant.askFromStop_reaches | with_reducible apply Plant.release_reaches | with_reducible apply Plant.freeCall_reaches | with_reducible apply Plant.askOrPend_reaches | with_reducible refine Plant.askFromStop_pair (by assumption) ?_ | split | dsimp only

theorem Plant.placeAt_reaches {p₀ p : Plant} (h : Plant.Reaches p₀ p) {x_ : Nat} {h_ : Handle} :
    Plant.Reaches p₀ (p.placeAt x_ h_) := by
  unfold Plant.placeAt
  repeat' first
    | with_reducible assumption | with_reducible apply Plant.modStop_reaches | split | dsimp only

theorem Plant.stopArrival_reaches {p₀ p : Plant} (h : Plant.Reaches p₀ p) {x_ : Nat} :
    Plant.Reaches p₀ (p.stopArrival x_) := by
  unfold Plant.stopArrival
  repeat' first
    | ((try lift_lets); intro q; first | (refine (fun (hq : Plant.Reaches p₀ q) => ?_) ?_; rotate_left; subst q; rotate_right; clear_value q) | clear_value q) | with_reducible assumption | with_reducible apply Plant.modRollIn_reaches | with_reducible apply Plant.modStop_reaches | with_reducible apply Plant.rollLands_reaches | with_reducible apply Plant.autoStow_reaches | with_reducible apply Plant.placeAt_reaches | with_reducible apply Plant.event_reaches | with_reducible apply Plant.rechooseBound_reaches | (with_reducible refine Plant.unknown_reaches (by assumption) rfl ?_) | split | (intro _; rfl) | (intro _; dsimp only; split <;> rfl) | dsimp only

theorem Plant.stopRemoval_reaches {p₀ p : Plant} (h : Plant.Reaches p₀ p) {x_ : Nat} :
    Plant.Reaches p₀ (p.stopRemoval x_) := by
  unfold Plant.stopRemoval
  repeat' first
    | with_reducible assumption | with_reducible apply Plant.modRollIn_reaches | with_reducible apply Plant.modStop_reaches | with_reducible apply Plant.modLink_reaches | with_reducible apply Plant.loseRoll_reaches | split | (intro _; rfl) | (intro _; dsimp only; split <;> rfl) | dsimp only

end Sys2Proof.Machine
end

