-- ==== Sys2Proof/Laws/ReachTransport.lean ====
section
/-! SUPPORT. What the operations of Machine/Transport.lean can do to the plant. -/
namespace Sys2Proof.Machine

theorem Plant.requestTransfer_reaches {p₀ p : Plant} (h : Plant.Reaches p₀ p) {cart_ : Nat} {x_ : Nat} {dir_ : TransferDir} {arm_ : Option Arm} :
    Plant.Reaches p₀ (p.requestTransfer cart_ x_ dir_ arm_).1 := by
  unfold Plant.requestTransfer
  repeat' first
    | with_reducible assumption | with_reducible apply Plant.modStop_reaches | with_reducible apply Plant.modCart_reaches | split | dsimp only

theorem Plant.requestTransfer_pair {p₀ p p₁ : Plant} {cart_ : Nat} {x_ : Nat} {dir_ : TransferDir} {arm_ : Option Arm} {b : Bool} (e : (p.requestTransfer cart_ x_ dir_ arm_) = (p₁, b))
    (h : Plant.Reaches p₀ p) : Plant.Reaches p₀ p₁ := by
  have k := Plant.requestTransfer_reaches h (cart_ := cart_) (x_ := x_) (dir_ := dir_) (arm_ := arm_)
  rwa [e] at k

theorem Plant.emptyArm_reaches {p₀ p : Plant} (h : Plant.Reaches p₀ p) {s_ : Nat} {m_ : Arm} :
    Plant.Reaches p₀ (p.emptyArm s_ m_) := by
  unfold Plant.emptyArm
  repeat' first
    | with_reducible assumption | with_reducible apply Plant.modArm_reaches | with_reducible apply Plant.modStand_reaches | split | dsimp only

theorem Plant.mountArm_reaches {p₀ p : Plant} (h : Plant.Reaches p₀ p) {s_ : Nat} {m_ : Arm} {r_ : RollRef} :
    Plant.Reaches p₀ (p.mountArm s_ m_ r_) := by
  unfold Plant.mountArm
  repeat' first
    | with_reducible assumption | with_reducible apply Plant.modArm_reaches | split | dsimp only

theorem Plant.moveToCart_reaches {p₀ p : Plant} (h : Plant.Reaches p₀ p) {x_ : Nat} {c_ : Cart} :
    Plant.Reaches p₀ (p.moveToCart x_ c_) := by
  unfold Plant.moveToCart
  repeat' first
    | with_reducible assumption | with_reducible apply Plant.modRollIn_reaches | with_reducible apply Plant.emptyArm_reaches | with_reducible apply Plant.modCart_reaches | with_reducible apply Plant.modStop_reaches | split | (intro _; rfl) | (intro _; split <;> rfl) | (intro _; dsimp only; split <;> rfl) | dsimp only

theorem Plant.moveToStop_reaches {p₀ p : Plant} (h : Plant.Reaches p₀ p) {x_ : Nat} {c_ : Cart} :
    Plant.Reaches p₀ (p.moveToStop x_ c_) := by
  unfold Plant.moveToStop
  repeat' first
    | ((try lift_lets); intro q; first | (refine (fun (hq : Plant.Reaches p₀ q) => ?_) ?_; rotate_left; subst q; rotate_right; clear_value q) | clear_value q) | with_reducible assumption | with_reducible apply Plant.modCart_reaches | with_reducible apply Plant.modRollIn_reaches | with_reducible apply Plant.mountArm_reaches | with_reducible apply Plant.deleteRoll_reaches | with_reducible apply Plant.placeAt_reaches | split | (intro _; rfl) | (intro _; split <;> rfl) | (intro _; dsimp only; split <;> rfl) | dsimp only

theorem Plant.prepArrival_reaches {p₀ p : Plant} (h : Plant.Reaches p₀ p) {x_ : Nat} :
    Plant.Reaches p₀ (p.prepArrival x_) := by
  unfold Plant.prepArrival
  repeat' first
    | with_reducible assumption | with_reducible apply Plant.askOrPend_reaches | split | dsimp only

theorem Plant.shipmentPlaced_reaches {p₀ p : Plant} (h : Plant.Reaches p₀ p) {x_ : Nat} :
    Plant.Reaches p₀ (p.shipmentPlaced x_) := by
  unfold Plant.shipmentPlaced
  repeat' first
    | with_reducible assumption | with_reducible apply Plant.send_reaches | with_reducible apply Plant.dropHolds_reaches | with_reducible apply Plant.modLink_reaches | split | dsimp only

theorem Plant.finishTask_reaches {p₀ p : Plant} (h : Plant.Reaches p₀ p) {num_ : Nat} {cart_ : Nat} :
    Plant.Reaches p₀ (p.finishTask num_ cart_) := by
  unfold Plant.finishTask
  repeat' first
    | with_reducible assumption | with_reducible apply Plant.removeTask_reaches | with_reducible apply Plant.modCart_reaches | split | dsimp only

theorem Plant.afterTransfer_reaches {p₀ p : Plant} (h : Plant.Reaches p₀ p) {cart_ : Nat} :
    Plant.Reaches p₀ (p.afterTransfer cart_) := by
  unfold Plant.afterTransfer
  repeat' first
    | with_reducible assumption | with_reducible apply Plant.modCart_reaches | split | dsimp only

theorem Plant.completeToCart_reaches {p₀ p : Plant} (h : Plant.Reaches p₀ p) {x_ : Nat} {c_ : Cart} :
    Plant.Reaches p₀ (p.completeToCart x_ c_) := by
  unfold Plant.completeToCart
  repeat' first
    | ((try lift_lets); intro q; first | (refine (fun (hq : Plant.Reaches p₀ q) => ?_) ?_; rotate_left; subst q; rotate_right; clear_value q) | clear_value q) | with_reducible assumption | with_reducible apply Plant.modStop_reaches | with_reducible apply Plant.moveToCart_reaches | with_reducible apply Plant.modTask_reaches | with_reducible apply Plant.afterTransfer_reaches | split | (intro _; rfl) | (intro _; split <;> rfl) | (intro _; dsimp only; split <;> rfl) | dsimp only

theorem Plant.completeToStop_reaches {p₀ p : Plant} (h : Plant.Reaches p₀ p) {x_ : Nat} {c_ : Cart} :
    Plant.Reaches p₀ (p.completeToStop x_ c_) := by
  unfold Plant.completeToStop
  repeat' first
    | ((try lift_lets); intro q; first | (refine (fun (hq : Plant.Reaches p₀ q) => ?_) ?_; rotate_left; subst q; rotate_right; clear_value q) | clear_value q) | with_reducible assumption | with_reducible apply Plant.modStop_reaches | with_reducible apply Plant.finishTask_reaches | with_reducible apply Plant.moveToStop_reaches | with_reducible apply Plant.prepArrival_reaches | with_reducible apply Plant.shipmentPlaced_reaches | with_reducible apply Plant.afterTransfer_reaches | with_reducible apply Plant.offerPending_reaches | split | dsimp only

theorem Plant.checkTransfer_reaches {p₀ p : Plant} (h : Plant.Reaches p₀ p) {x_ : Nat} :
    Plant.Reaches p₀ (p.checkTransfer x_) := by
  unfold Plant.checkTransfer
  repeat' first
    | with_reducible assumption | with_reducible apply Plant.completeToCart_reaches | with_reducible apply Plant.completeToStop_reaches | split | dsimp only

theorem Plant.sensorChanged_reaches {p₀ p : Plant} (h : Plant.Reaches p₀ p) {x_ : Nat} {on_ : Bool} :
    Plant.Reaches p₀ (p.sensorChanged x_ on_) := by
  unfold Plant.sensorChanged
  repeat' first
    | with_reducible assumption | with_reducible apply Plant.checkTransfer_reaches | with_reducible apply Plant.stopArrival_reaches | with_reducible apply Plant.stopRemoval_reaches | split | dsimp only

theorem Plant.transferOff_reaches {p₀ p : Plant} (h : Plant.Reaches p₀ p) {c_ : Cart} :
    Plant.Reaches p₀ (p.transferOff c_) := by
  unfold Plant.transferOff
  repeat' first
    | with_reducible assumption | with_reducible apply Plant.modStop_reaches | split | dsimp only

theorem Plant.dropLegs_reaches {p₀ p : Plant} (h : Plant.Reaches p₀ p) {c_ : Cart} {st_ : CartState} :
    Plant.Reaches p₀ (p.dropLegs c_ st_) := by
  unfold Plant.dropLegs
  repeat' first
    | with_reducible assumption | with_reducible apply Plant.transferOff_reaches | with_reducible apply Plant.unclaimLeg_reaches | with_reducible apply Plant.modCart_reaches | split | dsimp only

theorem Plant.enterFault_reaches {p₀ p : Plant} (h : Plant.Reaches p₀ p) {cart_ : Nat} {cause_ : FaultCause} :
    Plant.Reaches p₀ (p.enterFault cart_ cause_) := by
  unfold Plant.enterFault
  repeat' first
    | ((try lift_lets); intro q; first | (refine (fun (hq : Plant.Reaches p₀ q) => ?_) ?_; rotate_left; subst q; rotate_right; clear_value q) | clear_value q) | with_reducible assumption | with_reducible apply Plant.dropLegs_reaches | with_reducible apply Plant.modCart_reaches | with_reducible apply Plant.failTask_reaches | with_reducible apply Plant.event_reaches | split | dsimp only

theorem Plant.manualSections_reaches {p₀ p : Plant} (h : Plant.Reaches p₀ p) {c_ : Cart} :
    Plant.Reaches p₀ (p.manualSections c_) := by
  unfold Plant.manualSections
  repeat' first
    | with_reducible apply forEach_reaches | (intro _ _ _; with_reducible apply Plant.modSection_reaches) | ((try lift_lets); intro q; first | (refine (fun (hq : Plant.Reaches p₀ q) => ?_) ?_; rotate_left; subst q; rotate_right; clear_value q) | clear_value q) | with_reducible assumption | with_reducible apply Plant.releaseSections_reaches | with_reducible apply Plant.modCart_reaches | split | dsimp only

theorem Plant.enterManual_reaches {p₀ p : Plant} (h : Plant.Reaches p₀ p) {c_ : Cart} :
    Plant.Reaches p₀ (p.enterManual c_) := by
  unfold Plant.enterManual
  repeat' first
    | ((try lift_lets); intro q; first | (refine (fun (hq : Plant.Reaches p₀ q) => ?_) ?_; rotate_left; subst q; rotate_right; clear_value q) | clear_value q) | with_reducible assumption | with_reducible apply Plant.dropLegs_reaches | with_reducible apply Plant.manualSections_reaches | with_reducible apply Plant.failTask_reaches | split | dsimp only

theorem Plant.foundAt_reaches {p₀ p : Plant} (h : Plant.Reaches p₀ p) {cart_ : Nat} {x_ : Nat} :
    Plant.Reaches p₀ (p.foundAt cart_ x_) := by
  unfold Plant.foundAt
  repeat' first
    | ((try lift_lets); intro q; first | (refine (fun (hq : Plant.Reaches p₀ q) => ?_) ?_; rotate_left; subst q; rotate_right; clear_value q) | clear_value q) | with_reducible assumption | with_reducible apply Plant.leaveOtherStops_reaches | with_reducible apply Plant.standAt_reaches | with_reducible apply Plant.modCart_reaches | split | dsimp only

theorem Plant.foundIn_reaches {p₀ p : Plant} (h : Plant.Reaches p₀ p) {cart_ : Nat} {n_ : Nat} :
    Plant.Reaches p₀ (p.foundIn cart_ n_) := by
  unfold Plant.foundIn
  repeat' first
    | with_reducible assumption | with_reducible apply Plant.leaveOtherStops_reaches | with_reducible apply Plant.modCart_reaches | split | dsimp only

end Sys2Proof.Machine
end

