-- ==== Sys2Proof/Laws/ReachSchedule.lean ====
section
/-! SUPPORT. What the operations of Machine/Schedule.lean can do to the plant. -/
namespace Sys2Proof.Machine

theorem Plant.assign_reaches {p₀ p : Plant} (h : Plant.Reaches p₀ p) {t_ : Task} {c_ : Cart} {x_ : Nat} :
    Plant.Reaches p₀ (p.assign t_ c_ x_) := by
  unfold Plant.assign
  repeat' first
    | ((try lift_lets); intro q; first | (refine (fun (hq : Plant.Reaches p₀ q) => ?_) ?_; rotate_left; subst q; rotate_right; clear_value q) | clear_value q) | with_reducible assumption | with_reducible apply Plant.setNoSlot_reaches | with_reducible apply Plant.modTask_reaches | with_reducible apply Plant.modCart_reaches | with_reducible apply Plant.giveLeg_reaches | with_reducible apply Plant.backToWaiting_reaches | with_reducible refine Plant.giveLeg_pair (by assumption) ?_ | exact hq.same rfl rfl rfl rfl rfl rfl rfl | exact h.same rfl rfl rfl rfl rfl rfl rfl | split | (intro _; rfl) | (intro _; split <;> rfl) | (intro _; dsimp only; split <;> rfl) | dsimp only

theorem Plant.suspend_opt {p₀ p q : Plant} {t : Task} {x : Nat} (e : p.suspend t x = some q) (h : Plant.Reaches p₀ p) :
    Plant.Reaches p₀ q := by
  unfold Plant.suspend at e
  split at e
  · cases e
  · cases e
    refine Plant.assign_reaches (Plant.serveSlots_reaches (Plant.modTask_reaches (Plant.backToWaiting_reaches h) ?_))
    exact fun _ => rfl

theorem Plant.assignRound_opt {p₀ p q : Plant} (e : p.assignRound = some q) (h : Plant.Reaches p₀ p) :
    Plant.Reaches p₀ q := by
  unfold Plant.assignRound at e
  dsimp only at e
  split at e
  · simp only [Option.bind_eq_some_iff] at e
    obtain ⟨_, _, _, _, e⟩ := e
    exact Plant.suspend_opt e h
  · simp only [Option.bind_eq_some_iff, Option.map_eq_some_iff] at e
    obtain ⟨_, _, _, _, _, _, rfl⟩ := e
    exact Plant.assign_reaches h

theorem Plant.askTransfer_reaches {p₀ p : Plant} (h : Plant.Reaches p₀ p) {c_ : Cart} {t_ : Task} {dir_ : TransferDir} :
    Plant.Reaches p₀ (p.askTransfer c_ t_ dir_).1 := by
  unfold Plant.askTransfer
  repeat' first
    | with_reducible assumption | with_reducible apply Plant.requestTransfer_reaches | with_reducible apply Plant.modTask_reaches | with_reducible apply Plant.giveCarryLeg_reaches | with_reducible apply Plant.failTask_reaches | with_reducible refine Plant.requestTransfer_pair (by assumption) ?_ | exact hq.same rfl rfl rfl rfl rfl rfl rfl | exact h.same rfl rfl rfl rfl rfl rfl rfl | split | (intro _; rfl) | (intro _; split <;> rfl) | (intro _; dsimp only; split <;> rfl) | dsimp only

theorem Plant.askTransfer_pair {p₀ p p₁ : Plant} {c_ : Cart} {t_ : Task} {dir_ : TransferDir} {b : Bool} (e : (p.askTransfer c_ t_ dir_) = (p₁, b))
    (h : Plant.Reaches p₀ p) : Plant.Reaches p₀ p₁ := by
  have k := Plant.askTransfer_reaches h (c_ := c_) (t_ := t_) (dir_ := dir_)
  rwa [e] at k

theorem Plant.carryRound_opt {p₀ p q : Plant} (e : p.carryRound = some q) (h : Plant.Reaches p₀ p) :
    Plant.Reaches p₀ q := by
  unfold Plant.carryRound at e
  obtain ⟨_, _, rfl⟩ := Option.map_eq_some_iff.1 e
  exact Plant.giveCarryLeg_reaches h

theorem Plant.refreshTasks_reaches {p₀ p : Plant} (h : Plant.Reaches p₀ p) : Plant.Reaches p₀ p.refreshTasks :=
  h.same rfl rfl rfl rfl rfl rfl (map_num_map _ _ fun _ => rfl)

theorem Settling.round_opt {p₀ : Plant} {s t : Settling} (e : s.round = some t) (h : Plant.Reaches p₀ s.plant) :
    Plant.Reaches p₀ t.plant := by
  have hr := Plant.refreshTasks_reaches h
  unfold Settling.round at e
  dsimp only at e
  split at e
  · next c t' dir _ =>
    have ha := Plant.askTransfer_reaches hr (c_ := c) (t_ := t') (dir_ := dir)
    split at e <;> rename_i k <;> rw [k] at ha <;> cases e <;> exact ha
  split at e
  · next k => cases e; exact Plant.slotRound_opt k hr
  split at e
  · next k => cases e; exact Plant.assignRound_opt k hr
  · obtain ⟨q, k, rfl⟩ := Option.map_eq_some_iff.1 e
    exact Plant.carryRound_opt k hr

theorem settling_rounds {p₀ : Plant} {n : Nat} {s : Settling} (h : Plant.Reaches p₀ s.plant) :
    Plant.Reaches p₀ (rounds Settling.round n s).plant := by
  induction n generalizing s with
  | zero => exact h
  | succ k ih =>
    unfold rounds
    split
    · exact h
    · next e => exact ih (Settling.round_opt e h)

/-- What settling can do. -/
theorem Plant.settle_reaches {p₀ p : Plant} (h : Plant.Reaches p₀ p) : Plant.Reaches p₀ p.settle :=
  Plant.settleLevels_reaches (Plant.arbitrate_reaches (Plant.parkFreeCarts_reaches (Plant.refreshTasks_reaches
    (settling_rounds (s := { plant := p, refused := [] }) h))))

end Sys2Proof.Machine
end

