-- ==== Sys2Proof/Laws/ReachSupply.lean ====
section
/-! SUPPORT. What the operations of Machine/Supply.lean can do to the plant. -/
namespace Sys2Proof.Machine
-- One theorem at a time: side by side, the proofs take a thread's stack each.
set_option Elab.async false

theorem Plant.openCall_reaches {p₀ p : Plant} (h : Plant.Reaches p₀ p) {stand grade width minLen : Nat}
    (fresh : p.callOf? stand = none) : Plant.Reaches p₀ (p.openCall stand grade width minLen) := by
  unfold Plant.openCall
  apply Plant.send_reaches
  refine h.same rfl rfl rfl rfl rfl rfl rfl fun k => ⟨?_, k.holds, k.distinct, k.taken⟩
  rw [List.map_append, List.nodup_append]
  refine ⟨k.calls, by simp, fun x hx y hy e => ?_⟩
  obtain ⟨c, hc, rfl⟩ := List.mem_map.1 hx
  have hy : y = stand := by simpa using hy
  have := List.find?_eq_none.1 fresh c hc
  simp [e, hy] at this

theorem Plant.takeOffer_reaches {p₀ p : Plant} (h : Plant.Reaches p₀ p) {f_ : Frame} :
    Plant.Reaches p₀ (p.takeOffer f_) := by
  unfold Plant.takeOffer
  repeat' first
    | ((try lift_lets); intro q; first | (refine (fun (hq : Plant.Reaches p₀ q) => ?_) ?_; rotate_left; subst q; rotate_right; clear_value q) | clear_value q) | with_reducible assumption | with_reducible apply Plant.modCall_reaches | exact hq.same rfl rfl rfl rfl rfl rfl rfl | exact h.same rfl rfl rfl rfl rfl rfl rfl | split | (intro _; rfl) | (intro _; dsimp only; split <;> rfl) | dsimp only

theorem Plant.failCall_reaches {p₀ p : Plant} (h : Plant.Reaches p₀ p) {stand_ : Nat} :
    Plant.Reaches p₀ (p.failCall stand_) := by
  unfold Plant.failCall
  repeat' first
    | with_reducible assumption | with_reducible apply Plant.modCall_reaches | exact hq.same rfl rfl rfl rfl rfl rfl rfl | exact h.same rfl rfl rfl rfl rfl rfl rfl | split | (intro _; rfl) | (intro _; dsimp only; split <;> rfl) | dsimp only

theorem Plant.offerWindowEnd_reaches {p₀ p : Plant} (h : Plant.Reaches p₀ p) {stand_ : Nat} :
    Plant.Reaches p₀ (p.offerWindowEnd stand_) := by
  unfold Plant.offerWindowEnd
  repeat' first
    | with_reducible assumption | with_reducible apply Plant.failCall_reaches | with_reducible apply Plant.event_reaches | with_reducible apply Plant.send_reaches | with_reducible apply Plant.modCall_reaches | exact hq.same rfl rfl rfl rfl rfl rfl rfl | exact h.same rfl rfl rfl rfl rfl rfl rfl | split | (intro _; rfl) | (intro _; dsimp only; split <;> rfl) | dsimp only

theorem Plant.takeComing_reaches {p₀ p : Plant} (h : Plant.Reaches p₀ p) {f_ : Frame} :
    Plant.Reaches p₀ (p.takeComing f_) := by
  unfold Plant.takeComing
  repeat' first
    | with_reducible assumption | with_reducible apply Plant.modCall_reaches | exact hq.same rfl rfl rfl rfl rfl rfl rfl | exact h.same rfl rfl rfl rfl rfl rfl rfl | split | (intro _; rfl) | (intro _; dsimp only; split <;> rfl) | dsimp only

theorem Plant.takeGone_reaches {p₀ p : Plant} (h : Plant.Reaches p₀ p) {f_ : Frame} :
    Plant.Reaches p₀ (p.takeGone f_) := by
  unfold Plant.takeGone
  repeat' first
    | with_reducible assumption | with_reducible apply Plant.failCall_reaches | with_reducible apply Plant.event_reaches | exact hq.same rfl rfl rfl rfl rfl rfl rfl | exact h.same rfl rfl rfl rfl rfl rfl rfl | split | dsimp only

theorem Plant.shipWaitEnd_reaches {p₀ p : Plant} (h : Plant.Reaches p₀ p) {stand_ : Nat} :
    Plant.Reaches p₀ (p.shipWaitEnd stand_) := by
  unfold Plant.shipWaitEnd
  repeat' first
    | with_reducible assumption | with_reducible apply Plant.failCall_reaches | with_reducible apply Plant.event_reaches | exact hq.same rfl rfl rfl rfl rfl rfl rfl | exact h.same rfl rfl rfl rfl rfl rfl rfl | split | dsimp only

theorem Plant.retryEnd_reaches {p₀ p : Plant} (h : Plant.Reaches p₀ p) {stand_ : Nat} :
    Plant.Reaches p₀ (p.retryEnd stand_) := by
  unfold Plant.retryEnd
  repeat' first
    | with_reducible assumption | with_reducible apply Plant.freeCall_reaches | exact hq.same rfl rfl rfl rfl rfl rfl rfl | exact h.same rfl rfl rfl rfl rfl rfl rfl | split | dsimp only

theorem Plant.acceptShip_reaches {p₀ p : Plant} (h : Plant.Reaches p₀ p) {c : Call} {link inStop giver : Nat}
    {s : Snapshot} (fresh : s.num ≠ 0 → p.holderOf s.num = none) :
    Plant.Reaches p₀ (p.acceptShip c link inStop giver s) := by
  unfold Plant.acceptShip
  split
  · exact h
  · next k q e =>
    refine Plant.modCall_reaches (Plant.modLink_reaches (Plant.send_reaches (Plant.modStop_reaches
      (h.trans (.create e ?_))))) fun _ => rfl
    intro n hn
    have hn : (if s.num = 0 then none else some s.num) = some n := hn
    split at hn
    · cases hn
    · next h0 => cases hn; exact fresh h0

theorem Plant.takeReady_reaches {p₀ p : Plant} (h : Plant.Reaches p₀ p) {f : Frame} :
    Plant.Reaches p₀ (p.takeReady f) := by
  unfold Plant.takeReady
  dsimp only
  split
  · exact Plant.send_reaches h
  split
  · exact Plant.send_reaches h
  · next c _ =>
    split
    · refine Plant.event_reaches (Plant.failCall_reaches (Plant.send_reaches ?_))
      split
      · exact Plant.event_reaches h
      · exact h
    · next e =>
      refine Plant.acceptShip_reaches h fun h0 => ?_
      unfold Plant.shipRefusal at e
      split at e
      · repeat (split at e; · cases e)
        · next d =>
          cases hh : p.holderOf f.shipSnapshot.ranged.num with
          | none => rfl
          | some k => exact absurd ⟨h0, by rw [hh]; rfl⟩ d
      · cases e

theorem Plant.callerLandingEnd_reaches {p₀ p : Plant} (h : Plant.Reaches p₀ p) {link_ : Nat} :
    Plant.Reaches p₀ (p.callerLandingEnd link_) := by
  unfold Plant.callerLandingEnd
  repeat' first
    | ((try lift_lets); intro q; first | (refine (fun (hq : Plant.Reaches p₀ q) => ?_) ?_; rotate_left; subst q; rotate_right; clear_value q) | clear_value q) | with_reducible assumption | with_reducible apply Plant.deleteRoll_reaches | with_reducible apply Plant.modLink_reaches | with_reducible apply Plant.event_reaches | with_reducible apply Plant.failCall_reaches | exact hq.same rfl rfl rfl rfl rfl rfl rfl | exact h.same rfl rfl rfl rfl rfl rfl rfl | split | dsimp only

theorem Plant.withdrawCall_reaches {p₀ p : Plant} (h : Plant.Reaches p₀ p) {stand_ : Nat} :
    Plant.Reaches p₀ (p.withdrawCall stand_) := by
  unfold Plant.withdrawCall
  repeat' first
    | ((try lift_lets); intro q; first | (refine (fun (hq : Plant.Reaches p₀ q) => ?_) ?_; rotate_left; subst q; rotate_right; clear_value q) | clear_value q) | with_reducible assumption | with_reducible apply Plant.send_reaches | with_reducible apply Plant.freeCall_reaches | with_reducible apply Plant.modLink_reaches | with_reducible apply Plant.release_reaches | exact hq.same rfl rfl rfl rfl rfl rfl rfl | exact h.same rfl rfl rfl rfl rfl rfl rfl | split | dsimp only

/-- What `offerLink` checks of the hold table (R52, R54). -/
theorem Plant.offerLink_holds {p : Plant} {f : Frame} {x : LinkRec × LinkCfg} (e : p.offerLink f = some x) :
    p.supply.holds.length < 8 ∧ ∀ h ∈ p.supply.holds, (h.caller, h.callNo) ≠ (f.src, f.callNo) := by
  unfold Plant.offerLink at e
  split at e
  · split at e
    · next g =>
      obtain ⟨-, -, -, -, d, -, n⟩ := g
      exact ⟨n, fun h hh k => by
        have := List.any_eq_false.1 d h hh
        simp only [Prod.mk.injEq] at k
        simp [k] at this⟩
    · cases e
  · cases e

theorem Plant.considerCall_reaches {p₀ p : Plant} (h : Plant.Reaches p₀ p) {f : Frame} :
    Plant.Reaches p₀ (p.considerCall f) := by
  unfold Plant.considerCall
  split
  · exact h
  · next l cfg e =>
    obtain ⟨n, d⟩ := Plant.offerLink_holds e
    split
    · exact h
    · apply Plant.send_reaches
      refine Plant.Reaches.same (Plant.modRoll_reaches h (f := fun r => { r with claim := .hold f.src f.callNo })
        fun _ => rfl) rfl rfl rfl rfl rfl rfl rfl fun k => ⟨k.calls, ?_, ?_, ?_⟩
      · rw [List.length_append]
        exact n
      · rw [List.map_append, List.nodup_append]
        refine ⟨k.distinct, by simp, fun x hx y hy e => ?_⟩
        obtain ⟨c, hc, rfl⟩ := List.mem_map.1 hx
        have hy : y = (f.src, f.callNo) := by simpa using hy
        exact d c hc (e.trans hy)
      · rw [List.filter_append]
        simpa using k.taken

theorem Plant.freeHold_reaches {p₀ p : Plant} (h : Plant.Reaches p₀ p) {h_ : Hold} :
    Plant.Reaches p₀ (p.freeHold h_) := by
  unfold Plant.freeHold
  repeat' first
    | with_reducible assumption | with_reducible apply Plant.release_reaches | with_reducible apply Plant.dropHolds_reaches | split | dsimp only

theorem nodup_of_map {α β : Type} {l : List α} (f : α → β) (h : (l.map f).Nodup) : l.Nodup := by
  induction l with
  | nil => exact .nil
  | cons x xs ih =>
    rw [List.map_cons, List.nodup_cons] at h
    exact List.nodup_cons.2 ⟨fun m => h.1 (List.mem_map_of_mem m), ih h.2⟩

theorem take_links {h : Hold} {l : List Hold} (nodup : l.Nodup) (taken : ((l.filter (·.expiry.isNone)).map (·.link)).Nodup)
    (free : ∀ o ∈ l, o.expiry = none → o.link ≠ h.link) :
    (((updateIf (· == h) (fun h => { h with expiry := none }) l).filter (·.expiry.isNone)).map (·.link)).Nodup := by
  induction l with
  | nil => exact .nil
  | cons x xs ih =>
    have ih := ih (List.nodup_cons.1 nodup).2 (taken.sublist (((List.sublist_cons_self x xs).filter _).map _)) fun o m =>
      free o (List.mem_cons_of_mem _ m)
    have hx := (List.nodup_cons.1 nodup).1
    by_cases e : x = h
    · subst e
      have same : updateIf (· == x) (fun h => { h with expiry := none }) xs = xs := by
        unfold updateIf
        refine (List.map_congr_left (g := id) fun o m => ?_).trans (List.map_id xs)
        have : o ≠ x := fun k => hx (k ▸ m)
        simp [this]
      rw [same] at ih
      show (((if (x == x) = true then { x with expiry := none } else x) ::
        updateIf (· == x) (fun h => { h with expiry := none }) xs).filter (·.expiry.isNone) |>.map (·.link)).Nodup
      rw [same, if_pos (by simp), List.filter_cons_of_pos (by rfl), List.map_cons, List.nodup_cons]
      refine ⟨fun m => ?_, ih⟩
      obtain ⟨o, ho, k⟩ := List.mem_map.1 m
      rw [List.mem_filter] at ho
      exact free o (List.mem_cons_of_mem _ ho.1) (by simpa using ho.2) k
    · show (((if (x == h) = true then { x with expiry := none } else x) ::
        updateIf (· == h) (fun h => { h with expiry := none }) xs).filter (·.expiry.isNone) |>.map (·.link)).Nodup
      rw [if_neg (by simpa using e)]
      by_cases n : x.expiry.isNone = true
      · rw [List.filter_cons_of_pos (p := fun x : Hold => x.expiry.isNone) n] at taken ⊢
        rw [List.map_cons, List.nodup_cons] at taken ⊢
        refine ⟨fun m => ?_, ih⟩
        obtain ⟨o, ho, k⟩ := List.mem_map.1 m
        rw [List.mem_filter] at ho
        obtain ⟨y, hy, rfl⟩ := List.mem_map.1 ho.1
        by_cases g : y = h
        · rw [if_pos (by simpa using g)] at k
          exact free x List.mem_cons_self (by simpa using n) (by rw [← k, ← g])
        · rw [if_neg (by simpa using g)] at k ho
          exact taken.1 (List.mem_map.2 ⟨y, List.mem_filter.2 ⟨hy, ho.2⟩, k⟩)
      · rw [List.filter_cons_of_neg (p := fun x : Hold => x.expiry.isNone) n]
        exact ih

/-- A hold becomes TAKEN where its link has no other TAKEN hold. -/
theorem Supply.InOrder.take {u : Supply} (k : u.InOrder) {h : Hold}
    (free : ∀ o ∈ u.holds, o.expiry = none → o.link ≠ h.link) :
    ({ u with holds := updateIf (· == h) (fun h => { h with expiry := none }) u.holds } : Supply).InOrder := by
  refine ⟨k.calls, by simpa [updateIf] using k.holds, ?_, take_links (nodup_of_map _ k.distinct) k.taken free⟩
  have e : (updateIf (· == h) (fun h => { h with expiry := none }) u.holds).map (fun h => (h.caller, h.callNo)) =
      u.holds.map fun h => (h.caller, h.callNo) := by
    unfold updateIf
    rw [List.map_map]
    refine List.map_congr_left fun o _ => ?_
    simp only [Function.comp]
    split <;> rfl
  exact e ▸ k.distinct

theorem Plant.startShipment_reaches {p₀ p : Plant} (h : Plant.Reaches p₀ p) {k : Hold} {rollNo : Nat}
    (free : ∀ o ∈ p.supply.holds, o.expiry = none → o.link ≠ k.link) : Plant.Reaches p₀ (p.startShipment k rollNo) := by
  unfold Plant.startShipment
  have h₁ := h.same (q := { p with supply := { p.supply with holds := updateIf (· == k) (fun h => { h with expiry := none }) p.supply.holds } })
    rfl rfl rfl rfl rfl rfl rfl fun o => o.take free
  have h₂ := Plant.modRoll_reaches h₁ (k := k.roll)
    (f := fun r => if r.claim = .hold k.caller k.callNo then { r with claim := .ship k.link } else r)
    fun r => by split <;> rfl
  dsimp only
  split
  · next e => exact Plant.send_reaches (Plant.modLink_reaches (Plant.createTask_pair e h₂))
  · next e => exact Plant.dropHolds_reaches (Plant.release_reaches (Plant.send_reaches (Plant.createTask_pair e h₂)))

theorem Plant.takeTake_reaches {p₀ p : Plant} (h : Plant.Reaches p₀ p) {f : Frame} :
    Plant.Reaches p₀ (p.takeTake f) := by
  unfold Plant.takeTake
  split
  · exact Plant.send_reaches h
  · next k _ =>
    split
    · exact h
    split
    · next g =>
      refine Plant.startShipment_reaches h fun o m n => ?_
      have := List.any_eq_false.1 g.1 o m
      simpa [n] using this
    · exact Plant.freeHold_reaches (Plant.send_reaches h)

theorem Plant.takeClose_reaches {p₀ p : Plant} (h : Plant.Reaches p₀ p) {f_ : Frame} :
    Plant.Reaches p₀ (p.takeClose f_) := by
  unfold Plant.takeClose
  repeat' first
    | with_reducible assumption | with_reducible apply Plant.freeHold_reaches | exact hq.same rfl rfl rfl rfl rfl rfl rfl | exact h.same rfl rfl rfl rfl rfl rfl rfl | split | dsimp only

theorem Plant.holdEnd_reaches {p₀ p : Plant} (h : Plant.Reaches p₀ p) {caller_ : Nat} {callNo_ : Nat} :
    Plant.Reaches p₀ (p.holdEnd caller_ callNo_) := by
  unfold Plant.holdEnd
  repeat' first
    | with_reducible assumption | with_reducible apply Plant.freeHold_reaches | exact hq.same rfl rfl rfl rfl rfl rfl rfl | exact h.same rfl rfl rfl rfl rfl rfl rfl | split | dsimp only

theorem Plant.repeatComing_reaches {p₀ p : Plant} (h : Plant.Reaches p₀ p) {link_ : Nat} :
    Plant.Reaches p₀ (p.repeatComing link_) := by
  unfold Plant.repeatComing
  repeat' first
    | with_reducible assumption | with_reducible apply Plant.modLink_reaches | with_reducible apply Plant.send_reaches | exact hq.same rfl rfl rfl rfl rfl rfl rfl | exact h.same rfl rfl rfl rfl rfl rfl rfl | split | dsimp only

theorem Plant.endUndelivered_reaches {p₀ p : Plant} (h : Plant.Reaches p₀ p) {l_ : LinkRec} :
    Plant.Reaches p₀ (p.endUndelivered l_) := by
  unfold Plant.endUndelivered
  repeat' first
    | ((try lift_lets); intro q; first | (refine (fun (hq : Plant.Reaches p₀ q) => ?_) ?_; rotate_left; subst q; rotate_right; clear_value q) | clear_value q) | with_reducible assumption | with_reducible apply Plant.release_reaches | with_reducible apply Plant.outIdle_reaches | with_reducible apply Plant.askOrPend_reaches | exact hq.same rfl rfl rfl rfl rfl rfl rfl | exact h.same rfl rfl rfl rfl rfl rfl rfl | split | dsimp only

theorem Plant.takeAccept_reaches {p₀ p : Plant} (h : Plant.Reaches p₀ p) {f_ : Frame} :
    Plant.Reaches p₀ (p.takeAccept f_) := by
  unfold Plant.takeAccept
  repeat' first
    | with_reducible assumption | with_reducible apply Plant.modLink_reaches | exact hq.same rfl rfl rfl rfl rfl rfl rfl | exact h.same rfl rfl rfl rfl rfl rfl rfl | split | dsimp only

theorem Plant.takeRefuse_reaches {p₀ p : Plant} (h : Plant.Reaches p₀ p) {f_ : Frame} :
    Plant.Reaches p₀ (p.takeRefuse f_) := by
  unfold Plant.takeRefuse
  repeat' first
    | with_reducible assumption | with_reducible apply Plant.event_reaches | with_reducible apply Plant.endUndelivered_reaches | exact hq.same rfl rfl rfl rfl rfl rfl rfl | exact h.same rfl rfl rfl rfl rfl rfl rfl | split | dsimp only

theorem Plant.acceptWaitEnd_reaches {p₀ p : Plant} (h : Plant.Reaches p₀ p) {link_ : Nat} :
    Plant.Reaches p₀ (p.acceptWaitEnd link_) := by
  unfold Plant.acceptWaitEnd
  repeat' first
    | with_reducible assumption | with_reducible apply Plant.event_reaches | with_reducible apply Plant.endUndelivered_reaches | exact hq.same rfl rfl rfl rfl rfl rfl rfl | exact h.same rfl rfl rfl rfl rfl rfl rfl | split | dsimp only

theorem Plant.conveyorClearEnd_reaches {p₀ p : Plant} (h : Plant.Reaches p₀ p) {link_ : Nat} :
    Plant.Reaches p₀ (p.conveyorClearEnd link_) := by
  unfold Plant.conveyorClearEnd
  repeat' first
    | with_reducible assumption | with_reducible apply Plant.event_reaches | with_reducible apply Plant.endUndelivered_reaches | exact hq.same rfl rfl rfl rfl rfl rfl rfl | exact h.same rfl rfl rfl rfl rfl rfl rfl | split | dsimp only

theorem Plant.endShipment_reaches {p₀ p : Plant} (h : Plant.Reaches p₀ p) {l_ : LinkRec} :
    Plant.Reaches p₀ (p.endShipment l_) := by
  unfold Plant.endShipment
  repeat' first
    | with_reducible assumption | with_reducible apply Plant.deleteRoll_reaches | with_reducible apply Plant.outIdle_reaches | exact hq.same rfl rfl rfl rfl rfl rfl rfl | exact h.same rfl rfl rfl rfl rfl rfl rfl | split | dsimp only

theorem Plant.takeLanded_reaches {p₀ p : Plant} (h : Plant.Reaches p₀ p) {f_ : Frame} :
    Plant.Reaches p₀ (p.takeLanded f_) := by
  unfold Plant.takeLanded
  repeat' first
    | with_reducible assumption | with_reducible apply Plant.endShipment_reaches | exact hq.same rfl rfl rfl rfl rfl rfl rfl | exact h.same rfl rfl rfl rfl rfl rfl rfl | split | dsimp only

theorem Plant.giverLandingEnd_reaches {p₀ p : Plant} (h : Plant.Reaches p₀ p) {link_ : Nat} :
    Plant.Reaches p₀ (p.giverLandingEnd link_) := by
  unfold Plant.giverLandingEnd
  repeat' first
    | with_reducible assumption | with_reducible apply Plant.endShipment_reaches | with_reducible apply Plant.event_reaches | exact hq.same rfl rfl rfl rfl rfl rfl rfl | exact h.same rfl rfl rfl rfl rfl rfl rfl | split | dsimp only

end Sys2Proof.Machine
end

