-- ==== Sys2Proof/Laws/ReachStore.lean ====
section
/-! SUPPORT. What the operations of Machine/Store.lean can do to the plant. -/
namespace Sys2Proof.Machine

theorem Plant.serveStand_reaches {p₀ p : Plant} (h : Plant.Reaches p₀ p) {stand_ : Nat} {s_ : Standing} :
    Plant.Reaches p₀ (p.serveStand stand_ s_).1 := by
  unfold Plant.serveStand
  repeat' first
    | ((try lift_lets); intro q; first | (refine (fun (hq : Plant.Reaches p₀ q) => ?_) ?_; rotate_left; subst q; rotate_right; clear_value q) | clear_value q) | with_reducible assumption | with_reducible apply Plant.modRoll_reaches | with_reducible apply Plant.createTask_reaches | with_reducible apply Plant.release_reaches | with_reducible refine Plant.createTask_pair (by assumption) ?_ | exact hq.same rfl rfl rfl rfl rfl rfl rfl | exact h.same rfl rfl rfl rfl rfl rfl rfl | split | (intro _; rfl) | (intro _; split <;> rfl) | (intro _; dsimp only; split <;> rfl) | dsimp only

theorem Plant.serveStand_pair {p₀ p p₁ : Plant} {stand_ : Nat} {s_ : Standing} {b : Answer} (e : (p.serveStand stand_ s_) = (p₁, b))
    (h : Plant.Reaches p₀ p) : Plant.Reaches p₀ p₁ := by
  have k := Plant.serveStand_reaches h (stand_ := stand_) (s_ := s_)
  rwa [e] at k

theorem Plant.unmatched_reaches {p₀ p : Plant} (h : Plant.Reaches p₀ p) {stand_ : Nat} :
    Plant.Reaches p₀ (p.unmatched stand_) := by
  unfold Plant.unmatched
  repeat' first
    | with_reducible assumption | with_reducible apply Plant.modStand_reaches | with_reducible apply Plant.event_reaches | exact hq.same rfl rfl rfl rfl rfl rfl rfl | exact h.same rfl rfl rfl rfl rfl rfl rfl | split | dsimp only

theorem Plant.withdrawOutside_reaches {p₀ p : Plant} (h : Plant.Reaches p₀ p) {stand_ : Nat} :
    Plant.Reaches p₀ (p.withdrawOutside stand_) := by
  unfold Plant.withdrawOutside
  repeat' first
    | with_reducible assumption | with_reducible apply Plant.withdrawCall_reaches | exact hq.same rfl rfl rfl rfl rfl rfl rfl | exact h.same rfl rfl rfl rfl rfl rfl rfl | split | dsimp only

theorem Plant.rollRequest_reaches {p₀ p : Plant} (h : Plant.Reaches p₀ p) {stand need : Nat} :
    Plant.Reaches p₀ (p.rollRequest stand need).1 := by
  unfold Plant.rollRequest
  split
  · exact Plant.unmatched_reaches h
  · have h₁ := Plant.modStand_reaches h (n := stand) (f := fun s => { s with unidentSent := false })
    dsimp only
    split
    · exact Plant.serveStand_reaches (Plant.withdrawOutside_reaches h₁)
    split
    · exact h₁
    · next e => exact Plant.openCall_reaches h₁ (by simpa using e)

theorem Plant.rollRequest_pair {p₀ p p₁ : Plant} {stand need : Nat} {b : Answer} (e : p.rollRequest stand need = (p₁, b))
    (h : Plant.Reaches p₀ p) : Plant.Reaches p₀ p₁ := by
  have k := Plant.rollRequest_reaches h (stand := stand) (need := need)
  rwa [e] at k

theorem Plant.prepConfirm_reaches {p₀ p : Plant} (h : Plant.Reaches p₀ p) {x_ : Nat} :
    Plant.Reaches p₀ (p.prepConfirm x_) := by
  unfold Plant.prepConfirm
  repeat' first
    | with_reducible assumption | with_reducible apply Plant.event_reaches | with_reducible apply Plant.modRollIn_reaches | with_reducible apply Plant.askOrPend_reaches | exact hq.same rfl rfl rfl rfl rfl rfl rfl | exact h.same rfl rfl rfl rfl rfl rfl rfl | split | (intro _; rfl) | (intro _; split <;> rfl) | (intro _; dsimp only; split <;> rfl) | dsimp only

theorem Plant.removeForReject_reaches {p₀ p : Plant} (h : Plant.Reaches p₀ p) {h_ : Handle} :
    Plant.Reaches p₀ (p.removeForReject h_) := by
  unfold Plant.removeForReject
  repeat' first
    | with_reducible assumption | with_reducible apply Plant.dropTask_reaches | exact hq.same rfl rfl rfl rfl rfl rfl rfl | exact h.same rfl rfl rfl rfl rfl rfl rfl | split | dsimp only

theorem Plant.prepReject_reaches {p₀ p : Plant} (h : Plant.Reaches p₀ p) {x_ : Nat} :
    Plant.Reaches p₀ (p.prepReject x_) := by
  unfold Plant.prepReject
  repeat' first
    | with_reducible assumption | with_reducible apply Plant.event_reaches | with_reducible apply Plant.modRollIn_reaches | with_reducible apply Plant.removeForReject_reaches | with_reducible apply Plant.releaseStand_reaches | with_reducible apply Plant.askOrPend_reaches | exact hq.same rfl rfl rfl rfl rfl rfl rfl | exact h.same rfl rfl rfl rfl rfl rfl rfl | split | (intro _; rfl) | (intro _; split <;> rfl) | (intro _; dsimp only; split <;> rfl) | dsimp only

end Sys2Proof.Machine
end

