-- ==== Sys2Proof/Laws/ReachState.lean ====
section
/-! SUPPORT. What an operation on the whole node can do to its plant. -/
namespace Sys2Proof.Machine

/-- The plant of `t` comes from the plant of `s` by the changes of `Plant.Reaches`, and no command has joined or left. -/
def State.Leads (s t : State) : Prop := Plant.Reaches s.plant t.plant ∧ t.pending = s.pending

section
variable {s₀ s : State}

theorem State.Leads.refl (s : State) : State.Leads s s := ⟨.refl _, rfl⟩

theorem State.Leads.plant (h : State.Leads s₀ s) : Plant.Reaches s₀.plant s.plant := h.1

theorem State.modPlant_leads (h : State.Leads s₀ s) {f : Plant → Plant}
    (hf : ∀ q, Plant.Reaches s₀.plant q → Plant.Reaches s₀.plant (f q)) : State.Leads s₀ (s.modPlant f) :=
  ⟨hf _ h.1, h.2⟩

theorem State.withPlant_leads (h : State.Leads s₀ s) {p : Plant} (hp : Plant.Reaches s₀.plant p) :
    State.Leads s₀ { s with plant := p } := ⟨hp, h.2⟩

theorem State.modPress_leads (h : State.Leads s₀ s) {f : Press → Press} : State.Leads s₀ (s.modPress f) := h
theorem State.modWeb_leads (h : State.Leads s₀ s) {n f} : State.Leads s₀ (s.modWeb n f) := h
theorem State.modWasteStand_leads (h : State.Leads s₀ s) {n f} : State.Leads s₀ (s.modWasteStand n f) := h
theorem State.modWaste_leads (h : State.Leads s₀ s) {f} : State.Leads s₀ (s.modWaste f) := h
theorem State.modEdition_leads (h : State.Leads s₀ s) {f} : State.Leads s₀ (s.modEdition f) := h
theorem State.discardTrims_leads (h : State.Leads s₀ s) : State.Leads s₀ s.discardTrims := h
theorem State.modStand_leads (h : State.Leads s₀ s) {n f} : State.Leads s₀ (s.modStand n f) :=
  State.modPlant_leads h fun _ h => Plant.modStand_reaches h
theorem State.modArm_leads (h : State.Leads s₀ s) {n m f} : State.Leads s₀ (s.modArm n m f) :=
  State.modPlant_leads h fun _ h => Plant.modArm_reaches h
theorem State.event_leads (h : State.Leads s₀ s) {e} : State.Leads s₀ (s.event e) :=
  State.modPlant_leads h fun _ h => Plant.event_reaches h

theorem forEach_leads {α : Type} {l : List α} {f : State → α → State} (h : State.Leads s₀ s)
    (hf : ∀ q x, State.Leads s₀ q → State.Leads s₀ (f q x)) : State.Leads s₀ (forEach l f s) := by
  unfold forEach
  induction l generalizing s with
  | nil => exact h
  | cons x xs ih => exact ih (hf _ _ h)

end

end Sys2Proof.Machine
end

