-- ==== Sys2Proof/Laws/ReachWeb.lean ====
section
/-! SUPPORT. What the operations of Machine/Web.lean can do to the plant. -/
namespace Sys2Proof.Machine

theorem State.endTrimOf_leads {s₀ s : State} (h : State.Leads s₀ s) {n_ : Nat} :
    State.Leads s₀ (s.endTrimOf n_) := by
  unfold State.endTrimOf
  split
  · next w c _ _ =>
    split
    · obtain ⟨w', cause⟩ := w.endTrim c s.press.edition.cutOff
      cases cause with
      | none => exact State.modWeb_leads h
      | some why => exact State.event_leads (State.modWeb_leads h)
    · exact h
  · exact h

end Sys2Proof.Machine
end

