-- ==== Sys2Proof/Laws/ReachWaste.lean ====
section
/-! SUPPORT. What the operations of Machine/Waste.lean can do to the plant. -/
namespace Sys2Proof.Machine

theorem State.bringUp_leads {s₀ s : State} (h : State.Leads s₀ s) {n_ : Nat} :
    State.Leads s₀ (s.bringUp n_) := by
  unfold State.bringUp
  repeat' first
    | with_reducible assumption | with_reducible apply State.modWasteStand_leads
    | with_reducible apply State.Leads.plant | split | (intro _; rfl) | (intro _; split <;> rfl)
    | (intro _; dsimp only; split <;> rfl) | dsimp only

theorem State.bringAll_leads {s₀ s : State} (h : State.Leads s₀ s) :
    State.Leads s₀ (s.bringAll) := by
  unfold State.bringAll
  repeat' first
    | with_reducible assumption | with_reducible apply State.bringUp_leads | with_reducible apply forEach_leads
    | with_reducible apply forEach_reaches | with_reducible apply State.Leads.plant | split | intro _ _ _
    | (intro _; rfl) | (intro _; split <;> rfl) | (intro _; dsimp only; split <;> rfl) | dsimp only

theorem State.resolveOldest_leads {s₀ s : State} (h : State.Leads s₀ s) {n_ : Nat} :
    State.Leads s₀ (s.resolveOldest n_) := by
  unfold State.resolveOldest
  repeat' first
    | with_reducible assumption | with_reducible apply State.modWasteStand_leads
    | with_reducible apply State.event_leads | with_reducible apply Plant.event_reaches
    | with_reducible apply State.Leads.plant | split | (intro _; rfl) | (intro _; split <;> rfl)
    | (intro _; dsimp only; split <;> rfl) | dsimp only

theorem State.pushMark_leads {s₀ s : State} (h : State.Leads s₀ s) {n_ : Nat} {old_ : RollRef} {new_ : RollRef} :
    State.Leads s₀ (s.pushMark n_ old_ new_) := by
  unfold State.pushMark
  repeat' first
    | with_reducible assumption | with_reducible apply State.bringUp_leads
    | with_reducible apply State.resolveOldest_leads | with_reducible apply State.modWasteStand_leads
    | with_reducible apply State.Leads.plant | split | (intro _; rfl) | (intro _; split <;> rfl)
    | (intro _; dsimp only; split <;> rfl) | dsimp only

theorem State.resetFolder_leads {s₀ s : State} (h : State.Leads s₀ s) {n_ : Nat} {r_ : RollRef} :
    State.Leads s₀ (s.resetFolder n_ r_) := by
  unfold State.resetFolder
  repeat' first
    | with_reducible assumption | with_reducible apply State.modWasteStand_leads
    | with_reducible apply State.Leads.plant | split | (intro _; rfl) | (intro _; split <;> rfl)
    | (intro _; dsimp only; split <;> rfl) | dsimp only

theorem State.latchBreak_leads {s₀ s : State} (h : State.Leads s₀ s) :
    State.Leads s₀ (s.latchBreak) := by
  unfold State.latchBreak
  repeat' first
    | with_reducible assumption | with_reducible apply State.modWaste_leads | with_reducible apply State.Leads.plant
    | split | (intro _; rfl) | (intro _; split <;> rfl) | (intro _; dsimp only; split <;> rfl) | dsimp only

theorem State.latchFailure_leads {s₀ s : State} (h : State.Leads s₀ s) {n_ : Nat} :
    State.Leads s₀ (s.latchFailure n_) := by
  unfold State.latchFailure
  repeat' first
    | with_reducible assumption | with_reducible apply State.latchBreak_leads
    | with_reducible apply State.Leads.plant | split | (intro _; rfl) | (intro _; split <;> rfl)
    | (intro _; dsimp only; split <;> rfl) | dsimp only

theorem State.setGate_leads {s₀ s : State} (h : State.Leads s₀ s) {on_ : Bool} :
    State.Leads s₀ (s.setGate on_) := by
  unfold State.setGate
  repeat' first
    | with_reducible assumption | with_reducible apply State.modWaste_leads | with_reducible apply State.Leads.plant
    | split | (intro _; rfl) | (intro _; split <;> rfl) | (intro _; dsimp only; split <;> rfl) | dsimp only

theorem State.attributeOn_leads {s₀ s : State} (h : State.Leads s₀ s) {waste_ : Bool} {n_ : Nat} :
    State.Leads s₀ (State.attributeOn waste_ s n_) := by
  unfold State.attributeOn
  repeat' first
    | ((try lift_lets); intro q; first | (refine (fun (hq : State.Leads s₀ q) => ?_) ?_; rotate_left; subst q; rotate_right; clear_value q) | (refine (fun (hq : Plant.Reaches s₀.plant q) => ?_) ?_; rotate_left; subst q; rotate_right; clear_value q) | clear_value q)
    | with_reducible assumption | with_reducible apply State.modWaste_leads
    | with_reducible apply State.modPlant_leads | with_reducible apply Plant.modRoll_reaches
    | with_reducible apply State.Leads.plant | split | intro _ _ | (intro _; rfl) | (intro _; split <;> rfl)
    | (intro _; dsimp only; split <;> rfl) | dsimp only

theorem State.attribute_leads {s₀ s : State} (h : State.Leads s₀ s) {waste_ : Bool} :
    State.Leads s₀ (s.attribute waste_) := by
  unfold State.attribute
  repeat' first
    | with_reducible assumption | with_reducible apply State.attributeOn_leads | with_reducible apply forEach_leads
    | with_reducible apply forEach_reaches | with_reducible apply State.Leads.plant | split | intro _ _ _
    | (intro _; rfl) | (intro _; split <;> rfl) | (intro _; dsimp only; split <;> rfl) | dsimp only

end Sys2Proof.Machine
end

