-- ==== Sys2Proof/Laws/ReachEdition.lean ====
section
/-! SUPPORT. What the operations of Machine/Edition.lean can do to the plant. -/
namespace Sys2Proof.Machine

theorem State.tally_leads {s₀ s : State} (h : State.Leads s₀ s) {cause_ : TallyCause} {dest_ : Nat} :
    State.Leads s₀ (s.tally cause_ dest_) := by
  unfold State.tally
  repeat' first
    | ((try lift_lets); intro q; first | (refine (fun (hq : State.Leads s₀ q) => ?_) ?_; rotate_left; subst q; rotate_right; clear_value q) | (refine (fun (hq : Plant.Reaches s₀.plant q) => ?_) ?_; rotate_left; subst q; rotate_right; clear_value q) | clear_value q)
    | with_reducible assumption | with_reducible apply State.modPlant_leads | with_reducible apply Plant.send_reaches
    | with_reducible apply State.modEdition_leads | with_reducible apply forEach_leads
    | with_reducible apply forEach_reaches | with_reducible apply State.Leads.plant | split | intro _ _ _ | intro _ _
    | (intro _; rfl) | (intro _; split <;> rfl) | (intro _; dsimp only; split <;> rfl) | dsimp only

theorem State.completeVersion_leads {s₀ s : State} (h : State.Leads s₀ s) {i_ : Nat} :
    State.Leads s₀ (s.completeVersion i_) := by
  unfold State.completeVersion
  repeat' first
    | ((try lift_lets); intro q; first | (refine (fun (hq : State.Leads s₀ q) => ?_) ?_; rotate_left; subst q; rotate_right; clear_value q) | (refine (fun (hq : Plant.Reaches s₀.plant q) => ?_) ?_; rotate_left; subst q; rotate_right; clear_value q) | clear_value q)
    | with_reducible assumption | with_reducible apply State.modEdition_leads
    | with_reducible apply State.event_leads | with_reducible apply Plant.event_reaches
    | with_reducible apply State.tally_leads | with_reducible apply State.Leads.plant | split | (intro _; rfl)
    | (intro _; split <;> rfl) | (intro _; dsimp only; split <;> rfl) | dsimp only

theorem State.checkVersion_leads {s₀ s : State} (h : State.Leads s₀ s) :
    State.Leads s₀ (s.checkVersion) := by
  unfold State.checkVersion
  repeat' first
    | with_reducible assumption | with_reducible apply State.completeVersion_leads
    | with_reducible apply State.Leads.plant | split | (intro _; rfl) | (intro _; split <;> rfl)
    | (intro _; dsimp only; split <;> rfl) | dsimp only

theorem State.trimCopy_leads {s₀ s : State} (h : State.Leads s₀ s) {k_ : CopyClass} :
    State.Leads s₀ (s.trimCopy k_) := by
  unfold State.trimCopy
  repeat' first
    | with_reducible assumption | with_reducible apply State.modWeb_leads
    | with_reducible apply State.endTrimOf_leads | with_reducible apply State.discardTrims_leads
    | with_reducible apply forEach_leads | with_reducible apply forEach_reaches
    | with_reducible apply State.Leads.plant | split | intro _ _ _ | (intro _; rfl) | (intro _; split <;> rfl)
    | (intro _; dsimp only; split <;> rfl) | dsimp only

theorem State.copyPulse_leads {s₀ s : State} (h : State.Leads s₀ s) :
    State.Leads s₀ (s.copyPulse) := by
  unfold State.copyPulse
  repeat' first
    | ((try lift_lets); intro q; first | (refine (fun (hq : State.Leads s₀ q) => ?_) ?_; rotate_left; subst q; rotate_right; clear_value q) | (refine (fun (hq : Plant.Reaches s₀.plant q) => ?_) ?_; rotate_left; subst q; rotate_right; clear_value q) | clear_value q)
    | with_reducible assumption | with_reducible apply State.bringAll_leads
    | with_reducible apply State.modWaste_leads | with_reducible apply State.setGate_leads
    | with_reducible apply State.attribute_leads | with_reducible apply State.modEdition_leads
    | with_reducible apply State.trimCopy_leads | with_reducible apply State.checkVersion_leads
    | with_reducible apply State.discardTrims_leads | with_reducible apply State.Leads.plant | split | (intro _; rfl)
    | (intro _; split <;> rfl) | (intro _; dsimp only; split <;> rfl) | dsimp only

theorem State.pressRise_leads {s₀ s : State} (h : State.Leads s₀ s) :
    State.Leads s₀ (s.pressRise) := by
  unfold State.pressRise
  repeat' first
    | ((try lift_lets); intro q; first | (refine (fun (hq : State.Leads s₀ q) => ?_) ?_; rotate_left; subst q; rotate_right; clear_value q) | (refine (fun (hq : Plant.Reaches s₀.plant q) => ?_) ?_; rotate_left; subst q; rotate_right; clear_value q) | clear_value q)
    | with_reducible assumption | with_reducible apply State.modWaste_leads
    | with_reducible apply State.modEdition_leads | with_reducible apply State.discardTrims_leads
    | with_reducible apply State.Leads.plant | split | (intro _; rfl) | (intro _; split <;> rfl)
    | (intro _; dsimp only; split <;> rfl) | dsimp only

theorem State.editionChanged_leads {s₀ s : State} (h : State.Leads s₀ s) :
    State.Leads s₀ (s.editionChanged) := by
  unfold State.editionChanged
  repeat' first
    | with_reducible assumption | with_reducible apply State.modWaste_leads
    | with_reducible apply State.discardTrims_leads | with_reducible apply State.Leads.plant | split | (intro _; rfl)
    | (intro _; split <;> rfl) | (intro _; dsimp only; split <;> rfl) | dsimp only

theorem State.loadPlan_leads {s₀ s : State} (h : State.Leads s₀ s) {pl_ : Plan} :
    State.Leads s₀ (s.loadPlan pl_) := by
  unfold State.loadPlan
  repeat' first
    | with_reducible assumption | with_reducible apply State.modEdition_leads
    | with_reducible apply State.editionChanged_leads | with_reducible apply State.Leads.plant | split
    | (intro _; rfl) | (intro _; split <;> rfl) | (intro _; dsimp only; split <;> rfl) | dsimp only

theorem State.takeEdition_leads {s₀ s : State} (h : State.Leads s₀ s) {pl_ : Plan} :
    State.Leads s₀ (s.takeEdition pl_) := by
  unfold State.takeEdition
  repeat' first
    | with_reducible assumption | with_reducible apply State.event_leads | with_reducible apply Plant.event_reaches
    | with_reducible apply State.loadPlan_leads | with_reducible apply State.Leads.plant | split | (intro _; rfl)
    | (intro _; split <;> rfl) | (intro _; dsimp only; split <;> rfl) | dsimp only

theorem State.takeEnd_leads {s₀ s : State} (h : State.Leads s₀ s) {id_ : Nat} :
    State.Leads s₀ (s.takeEnd id_) := by
  unfold State.takeEnd
  repeat' first
    | ((try lift_lets); intro q; first | (refine (fun (hq : State.Leads s₀ q) => ?_) ?_; rotate_left; subst q; rotate_right; clear_value q) | (refine (fun (hq : Plant.Reaches s₀.plant q) => ?_) ?_; rotate_left; subst q; rotate_right; clear_value q) | clear_value q)
    | with_reducible assumption | with_reducible apply State.event_leads | with_reducible apply Plant.event_reaches
    | with_reducible apply State.tally_leads | with_reducible apply State.modEdition_leads
    | with_reducible apply State.editionChanged_leads | with_reducible apply State.Leads.plant | split
    | (intro _; rfl) | (intro _; split <;> rfl) | (intro _; dsimp only; split <;> rfl) | dsimp only

theorem State.takeAmend_leads {s₀ s : State} (h : State.Leads s₀ s) {id_ : Nat} {vid_ : Nat} {count_ : Nat} :
    State.Leads s₀ (s.takeAmend id_ vid_ count_) := by
  unfold State.takeAmend
  repeat' first
    | ((try lift_lets); intro q; first | (refine (fun (hq : State.Leads s₀ q) => ?_) ?_; rotate_left; subst q; rotate_right; clear_value q) | (refine (fun (hq : Plant.Reaches s₀.plant q) => ?_) ?_; rotate_left; subst q; rotate_right; clear_value q) | clear_value q)
    | with_reducible assumption | with_reducible apply State.event_leads | with_reducible apply Plant.event_reaches
    | with_reducible apply State.modEdition_leads | with_reducible apply State.checkVersion_leads
    | with_reducible apply State.Leads.plant | split | (intro _; rfl) | (intro _; split <;> rfl)
    | (intro _; dsimp only; split <;> rfl) | dsimp only

theorem State.takeDivert_leads {s₀ s : State} (h : State.Leads s₀ s) {n_ : Nat} :
    State.Leads s₀ (s.takeDivert n_) := by
  unfold State.takeDivert
  repeat' first
    | with_reducible assumption | with_reducible apply State.event_leads | with_reducible apply Plant.event_reaches
    | with_reducible apply State.modWaste_leads | with_reducible apply State.Leads.plant | split | (intro _; rfl)
    | (intro _; split <;> rfl) | (intro _; dsimp only; split <;> rfl) | dsimp only

end Sys2Proof.Machine
end

