-- ==== Sys2Proof/Laws/ReachSplice.lean ====
section
/-! SUPPORT. What the operations of Machine/Splice.lean can do to the plant. -/
namespace Sys2Proof.Machine
-- One theorem at a time: side by side, the proofs take a thread's stack each.
set_option Elab.async false

theorem Plant.setArmState_reaches {p₀ p : Plant} (h : Plant.Reaches p₀ p) {n_ : Nat} {m_ : Arm} {st_ : ArmState} :
    Plant.Reaches p₀ (p.setArmState n_ m_ st_) := by
  unfold Plant.setArmState
  repeat' first
    | with_reducible assumption | with_reducible apply State.modArm_leads | with_reducible apply Plant.modArm_reaches
    | exact hq.same rfl rfl rfl rfl rfl rfl rfl | exact h.same rfl rfl rfl rfl rfl rfl rfl | split | (intro _; rfl)
    | (intro _; split <;> rfl) | (intro _; dsimp only; split <;> rfl) | dsimp only

theorem Plant.armRecord_reaches {p₀ p : Plant} (h : Plant.Reaches p₀ p) {n : Nat} {m : Arm} {before : RollState}
    {f : Roll → Roll} (hf : ∀ r, (f r).num = r.num) : Plant.Reaches p₀ (p.armRecord n m before f) := by
  unfold Plant.armRecord
  split
  · exact Plant.modRollIn_reaches h hf
  · exact h

theorem Plant.armRuns_reaches {p₀ p : Plant} (h : Plant.Reaches p₀ p) {n_ : Nat} {m_ : Arm} {before_ : RollState} :
    Plant.Reaches p₀ (p.armRuns n_ m_ before_) := by
  unfold Plant.armRuns
  repeat' first
    | ((try lift_lets); intro q; first | (refine (fun (hq : Plant.Reaches p₀ q) => ?_) ?_; rotate_left; subst q; rotate_right; clear_value q) | clear_value q)
    | with_reducible assumption | with_reducible apply Plant.armRecord_reaches
    | with_reducible apply State.modArm_leads | with_reducible apply Plant.modArm_reaches
    | exact hq.same rfl rfl rfl rfl rfl rfl rfl | exact h.same rfl rfl rfl rfl rfl rfl rfl | split | (intro _; rfl)
    | (intro _; split <;> rfl) | (intro _; dsimp only; split <;> rfl) | dsimp only

theorem Plant.writeDiameter_reaches {p₀ p : Plant} (h : Plant.Reaches p₀ p) {n_ : Nat} {m_ : Arm} :
    Plant.Reaches p₀ (p.writeDiameter n_ m_) := by
  unfold Plant.writeDiameter
  repeat' first
    | with_reducible assumption | with_reducible apply Plant.modRoll_reaches
    | exact hq.same rfl rfl rfl rfl rfl rfl rfl | exact h.same rfl rfl rfl rfl rfl rfl rfl | split | (intro _; rfl)
    | (intro _; split <;> rfl) | (intro _; dsimp only; split <;> rfl) | dsimp only

theorem Plant.armButts_reaches {p₀ p : Plant} (h : Plant.Reaches p₀ p) {n_ : Nat} {m_ : Arm} :
    Plant.Reaches p₀ (p.armButts n_ m_) := by
  unfold Plant.armButts
  repeat' first
    | with_reducible assumption | with_reducible apply Plant.writeDiameter_reaches
    | with_reducible apply Plant.armRecord_reaches | with_reducible apply State.modArm_leads
    | with_reducible apply Plant.modArm_reaches | exact hq.same rfl rfl rfl rfl rfl rfl rfl
    | exact h.same rfl rfl rfl rfl rfl rfl rfl | split | (intro _; rfl) | (intro _; split <;> rfl)
    | (intro _; dsimp only; split <;> rfl) | dsimp only

theorem Plant.standIdle_reaches {p₀ p : Plant} (h : Plant.Reaches p₀ p) {n_ : Nat} :
    Plant.Reaches p₀ (p.standIdle n_) := by
  unfold Plant.standIdle
  repeat' first
    | with_reducible assumption | with_reducible apply State.modStand_leads
    | with_reducible apply Plant.modStand_reaches | with_reducible apply Plant.pressStopNow_reaches
    | exact hq.same rfl rfl rfl rfl rfl rfl rfl | exact h.same rfl rfl rfl rfl rfl rfl rfl | split | (intro _; rfl)
    | (intro _; split <;> rfl) | (intro _; dsimp only; split <;> rfl) | dsimp only

theorem State.readyConfirm_leads {s₀ s : State} (h : State.Leads s₀ s) {n_ : Nat} {m_ : Arm} :
    State.Leads s₀ (s.readyConfirm n_ m_) := by
  unfold State.readyConfirm
  repeat' first
    | with_reducible assumption | with_reducible apply State.modPlant_leads
    | with_reducible apply Plant.armRecord_reaches | with_reducible apply Plant.setArmState_reaches
    | with_reducible apply Plant.armRuns_reaches | with_reducible apply State.modStand_leads
    | with_reducible apply Plant.modStand_reaches | with_reducible apply State.resetFolder_leads
    | with_reducible apply State.Leads.plant | split | intro _ _ | (intro _; rfl) | (intro _; split <;> rfl)
    | (intro _; dsimp only; split <;> rfl) | dsimp only

theorem State.abort_leads {s₀ s : State} (h : State.Leads s₀ s) {n_ : Nat} {cause_ : Nat} :
    State.Leads s₀ (s.abort n_ cause_) := by
  unfold State.abort
  repeat' first
    | ((try lift_lets); intro q; first | (refine (fun (hq : State.Leads s₀ q) => ?_) ?_; rotate_left; subst q; rotate_right; clear_value q) | (refine (fun (hq : Plant.Reaches s₀.plant q) => ?_) ?_; rotate_left; subst q; rotate_right; clear_value q) | clear_value q)
    | with_reducible assumption | with_reducible apply State.modStand_leads
    | with_reducible apply Plant.modStand_reaches | with_reducible apply State.modArm_leads
    | with_reducible apply Plant.modArm_reaches | with_reducible apply State.event_leads
    | with_reducible apply Plant.event_reaches | with_reducible apply State.Leads.plant | split | (intro _; rfl)
    | (intro _; split <;> rfl) | (intro _; dsimp only; split <;> rfl) | dsimp only

theorem State.failVerify_leads {s₀ s : State} (h : State.Leads s₀ s) {n_ : Nat} :
    State.Leads s₀ (s.failVerify n_) := by
  unfold State.failVerify
  repeat' first
    | with_reducible assumption | with_reducible apply State.modStand_leads
    | with_reducible apply Plant.modStand_reaches | with_reducible apply State.event_leads
    | with_reducible apply Plant.event_reaches | with_reducible apply State.latchFailure_leads
    | with_reducible apply State.Leads.plant | split | (intro _; rfl) | (intro _; split <;> rfl)
    | (intro _; dsimp only; split <;> rfl) | dsimp only

theorem State.webBreak_leads {s₀ s : State} (h : State.Leads s₀ s) {n_ : Nat} :
    State.Leads s₀ (s.webBreak n_) := by
  unfold State.webBreak
  repeat' first
    | with_reducible assumption | with_reducible apply State.modStand_leads
    | with_reducible apply Plant.modStand_reaches | with_reducible apply State.event_leads
    | with_reducible apply Plant.event_reaches | with_reducible apply State.latchBreak_leads
    | with_reducible apply State.abort_leads | with_reducible apply State.Leads.plant | split | (intro _; rfl)
    | (intro _; split <;> rfl) | (intro _; dsimp only; split <;> rfl) | dsimp only

theorem State.webPresentChanged_leads {s₀ s : State} (h : State.Leads s₀ s) {n_ : Nat} {on_ : Bool} :
    State.Leads s₀ (s.webPresentChanged n_ on_) := by
  unfold State.webPresentChanged
  repeat' first
    | with_reducible assumption | with_reducible apply State.modStand_leads
    | with_reducible apply Plant.modStand_reaches | with_reducible apply State.failVerify_leads
    | with_reducible apply State.webBreak_leads | with_reducible apply State.Leads.plant | split | (intro _; rfl)
    | (intro _; split <;> rfl) | (intro _; dsimp only; split <;> rfl) | dsimp only

theorem State.swapTo_leads {s₀ s : State} (h : State.Leads s₀ s) {n_ : Nat} {m_ : Arm} :
    State.Leads s₀ (s.swapTo n_ m_) := by
  unfold State.swapTo
  repeat' first
    | ((try lift_lets); intro q; first | (refine (fun (hq : State.Leads s₀ q) => ?_) ?_; rotate_left; subst q; rotate_right; clear_value q) | (refine (fun (hq : Plant.Reaches s₀.plant q) => ?_) ?_; rotate_left; subst q; rotate_right; clear_value q) | clear_value q)
    | with_reducible assumption | with_reducible apply State.modPlant_leads
    | with_reducible apply Plant.armRuns_reaches | with_reducible apply State.modStand_leads
    | with_reducible apply Plant.modStand_reaches | with_reducible apply Plant.pressStopNow_reaches
    | with_reducible apply State.failVerify_leads | with_reducible apply State.Leads.plant | split | intro _ _
    | (intro _; rfl) | (intro _; split <;> rfl) | (intro _; dsimp only; split <;> rfl) | dsimp only

theorem State.swapToNothing_leads {s₀ s : State} (h : State.Leads s₀ s) {n_ : Nat} :
    State.Leads s₀ (s.swapToNothing n_) := by
  unfold State.swapToNothing
  repeat' first
    | with_reducible assumption | with_reducible apply State.modPlant_leads
    | with_reducible apply State.modStand_leads | with_reducible apply Plant.modStand_reaches
    | with_reducible apply Plant.standIdle_reaches | with_reducible apply State.event_leads
    | with_reducible apply Plant.event_reaches | with_reducible apply State.latchFailure_leads
    | with_reducible apply State.Leads.plant | split | intro _ _ | (intro _; rfl) | (intro _; split <;> rfl)
    | (intro _; dsimp only; split <;> rfl) | dsimp only

theorem State.fireKnife_leads {s₀ s : State} (h : State.Leads s₀ s) {n_ : Nat} :
    State.Leads s₀ (s.fireKnife n_) := by
  unfold State.fireKnife
  repeat' first
    | ((try lift_lets); intro q; first | (refine (fun (hq : State.Leads s₀ q) => ?_) ?_; rotate_left; subst q; rotate_right; clear_value q) | (refine (fun (hq : Plant.Reaches s₀.plant q) => ?_) ?_; rotate_left; subst q; rotate_right; clear_value q) | clear_value q)
    | with_reducible assumption | with_reducible apply State.modPlant_leads
    | with_reducible apply State.modStand_leads | with_reducible apply Plant.modStand_reaches
    | with_reducible apply Plant.armButts_reaches | with_reducible apply State.swapTo_leads
    | with_reducible apply State.swapToNothing_leads | with_reducible apply State.Leads.plant | split | intro _ _
    | (intro _; rfl) | (intro _; split <;> rfl) | (intro _; dsimp only; split <;> rfl) | dsimp only

theorem State.verifyDone_leads {s₀ s : State} (h : State.Leads s₀ s) {n_ : Nat} :
    State.Leads s₀ (s.verifyDone n_) := by
  unfold State.verifyDone
  repeat' first
    | with_reducible assumption | with_reducible apply State.modStand_leads
    | with_reducible apply Plant.modStand_reaches | with_reducible apply State.event_leads
    | with_reducible apply Plant.event_reaches | with_reducible apply State.Leads.plant | split | (intro _; rfl)
    | (intro _; split <;> rfl) | (intro _; dsimp only; split <;> rfl) | dsimp only

theorem State.enterAccel_leads {s₀ s : State} (h : State.Leads s₀ s) {n_ : Nat} :
    State.Leads s₀ (s.enterAccel n_) := by
  unfold State.enterAccel
  repeat' first
    | with_reducible assumption | with_reducible apply State.modArm_leads | with_reducible apply Plant.modArm_reaches
    | with_reducible apply State.modStand_leads | with_reducible apply Plant.modStand_reaches
    | with_reducible apply State.Leads.plant | split | (intro _; rfl) | (intro _; split <;> rfl)
    | (intro _; dsimp only; split <;> rfl) | dsimp only

theorem State.enterMatched_leads {s₀ s : State} (h : State.Leads s₀ s) {n_ : Nat} :
    State.Leads s₀ (s.enterMatched n_) := by
  unfold State.enterMatched
  repeat' first
    | with_reducible assumption | with_reducible apply State.modStand_leads
    | with_reducible apply Plant.modStand_reaches | with_reducible apply State.spliceNow_leads
    | with_reducible apply State.Leads.plant | split | (intro _; rfl) | (intro _; split <;> rfl)
    | (intro _; dsimp only; split <;> rfl) | dsimp only

theorem State.schedulePaste_leads {s₀ s : State} (h : State.Leads s₀ s) {n_ : Nat} {tRev_ : Nat} :
    State.Leads s₀ (s.schedulePaste n_ tRev_) := by
  unfold State.schedulePaste
  repeat' first
    | ((try lift_lets); intro q; first | (refine (fun (hq : State.Leads s₀ q) => ?_) ?_; rotate_left; subst q; rotate_right; clear_value q) | (refine (fun (hq : Plant.Reaches s₀.plant q) => ?_) ?_; rotate_left; subst q; rotate_right; clear_value q) | clear_value q)
    | with_reducible assumption | with_reducible apply State.abort_leads | with_reducible apply State.modStand_leads
    | with_reducible apply Plant.modStand_reaches | with_reducible apply State.Leads.plant | split | (intro _; rfl)
    | (intro _; split <;> rfl) | (intro _; dsimp only; split <;> rfl) | dsimp only

theorem State.judged_leads {s₀ s : State} (h : State.Leads s₀ s) {n_ : Nat} {tRev_ : Nat} {matched_ : Bool} :
    State.Leads s₀ (s.judged n_ tRev_ matched_) := by
  unfold State.judged
  repeat' first
    | ((try lift_lets); intro q; first | (refine (fun (hq : ∀ t, State.Leads s₀ t → State.Leads s₀ (q t)) => ?_) ?_; rotate_left; subst q; rotate_right; clear_value q) | (refine (fun (hq : State.Leads s₀ q) => ?_) ?_; rotate_left; subst q; rotate_right; clear_value q) | (refine (fun (hq : Plant.Reaches s₀.plant q) => ?_) ?_; rotate_left; subst q; rotate_right; clear_value q) | clear_value q)
    | with_reducible assumption | with_reducible apply hq | with_reducible apply State.modStand_leads
    | with_reducible apply Plant.modStand_reaches | with_reducible apply State.enterMatched_leads
    | with_reducible apply State.schedulePaste_leads | with_reducible apply State.Leads.plant | split | intro _ _
    | (intro _; rfl) | (intro _; split <;> rfl) | (intro _; dsimp only; split <;> rfl) | dsimp only

theorem State.spinPulse_leads {s₀ s : State} (h : State.Leads s₀ s) {n_ : Nat} {m_ : Arm} :
    State.Leads s₀ (s.spinPulse n_ m_) := by
  unfold State.spinPulse
  repeat' first
    | ((try lift_lets); intro q; first | (refine (fun (hq : State.Leads s₀ q) => ?_) ?_; rotate_left; subst q; rotate_right; clear_value q) | (refine (fun (hq : Plant.Reaches s₀.plant q) => ?_) ?_; rotate_left; subst q; rotate_right; clear_value q) | clear_value q)
    | with_reducible assumption | with_reducible apply State.modArm_leads | with_reducible apply Plant.modArm_reaches
    | with_reducible apply State.judged_leads | with_reducible apply State.Leads.plant | split | (intro _; rfl)
    | (intro _; split <;> rfl) | (intro _; dsimp only; split <;> rfl) | dsimp only

theorem State.runPulse_leads {s₀ s : State} (h : State.Leads s₀ s) {n_ : Nat} {m_ : Arm} :
    State.Leads s₀ (s.runPulse n_ m_) := by
  unfold State.runPulse
  repeat' first
    | ((try lift_lets); intro q; first | (refine (fun (hq : State.Leads s₀ q) => ?_) ?_; rotate_left; subst q; rotate_right; clear_value q) | (refine (fun (hq : Plant.Reaches s₀.plant q) => ?_) ?_; rotate_left; subst q; rotate_right; clear_value q) | clear_value q)
    | with_reducible assumption | with_reducible apply State.modArm_leads | with_reducible apply Plant.modArm_reaches
    | with_reducible apply State.event_leads | with_reducible apply Plant.event_reaches
    | with_reducible apply State.Leads.plant | split | (intro _; rfl) | (intro _; split <;> rfl)
    | (intro _; dsimp only; split <;> rfl) | dsimp only

theorem State.armPulse_leads {s₀ s : State} (h : State.Leads s₀ s) {n_ : Nat} {m_ : Arm} :
    State.Leads s₀ (s.armPulse n_ m_) := by
  unfold State.armPulse
  repeat' first
    | with_reducible assumption | with_reducible apply State.modArm_leads | with_reducible apply Plant.modArm_reaches
    | with_reducible apply State.runPulse_leads | with_reducible apply State.spinPulse_leads
    | with_reducible apply State.Leads.plant | split | (intro _; rfl) | (intro _; split <;> rfl)
    | (intro _; dsimp only; split <;> rfl) | dsimp only

theorem State.paste_leads {s₀ s : State} (h : State.Leads s₀ s) {n_ : Nat} :
    State.Leads s₀ (s.paste n_) := by
  unfold State.paste
  repeat' first
    | ((try lift_lets); intro q; first | (refine (fun (hq : State.Leads s₀ q) => ?_) ?_; rotate_left; subst q; rotate_right; clear_value q) | (refine (fun (hq : Plant.Reaches s₀.plant q) => ?_) ?_; rotate_left; subst q; rotate_right; clear_value q) | clear_value q)
    | with_reducible assumption | with_reducible apply State.modPlant_leads
    | with_reducible apply State.modStand_leads | with_reducible apply Plant.modStand_reaches
    | with_reducible apply State.pushMark_leads | with_reducible apply State.modWeb_leads
    | with_reducible apply State.Leads.plant | split | intro _ _ | (intro _; rfl) | (intro _; split <;> rfl)
    | (intro _; dsimp only; split <;> rfl) | dsimp only

theorem State.spliceNow_leads {s₀ s : State} (h : State.Leads s₀ s) {n_ : Nat} :
    State.Leads s₀ (s.spliceNow n_) := by
  unfold State.spliceNow
  repeat' first
    | ((try lift_lets); intro q; first | (refine (fun (hq : ∀ t, State.Leads s₀ t → State.Leads s₀ (q t)) => ?_) ?_; rotate_left; subst q; rotate_right; clear_value q) | (refine (fun (hq : State.Leads s₀ q) => ?_) ?_; rotate_left; subst q; rotate_right; clear_value q) | (refine (fun (hq : Plant.Reaches s₀.plant q) => ?_) ?_; rotate_left; subst q; rotate_right; clear_value q) | clear_value q)
    | with_reducible assumption | with_reducible apply hq | with_reducible apply State.modStand_leads
    | with_reducible apply Plant.modStand_reaches | with_reducible apply State.enterAccel_leads
    | with_reducible apply State.event_leads | with_reducible apply Plant.event_reaches
    | with_reducible apply State.Leads.plant | split | intro _ _ | (intro _; rfl) | (intro _; split <;> rfl)
    | (intro _; dsimp only; split <;> rfl) | dsimp only

theorem Plant.armArrival_reaches {p₀ p : Plant} (h : Plant.Reaches p₀ p) {n_ : Nat} {m_ : Arm} :
    Plant.Reaches p₀ (p.armArrival n_ m_) := by
  unfold Plant.armArrival
  repeat' first
    | with_reducible assumption | with_reducible apply Plant.mountArm_reaches
    | with_reducible apply State.event_leads | with_reducible apply Plant.event_reaches
    | (with_reducible refine Plant.unknown_reaches (by assumption) rfl ?_)
    | exact hq.same rfl rfl rfl rfl rfl rfl rfl | exact h.same rfl rfl rfl rfl rfl rfl rfl | split | (intro _; rfl)
    | (intro _; split <;> rfl) | (intro _; dsimp only; split <;> rfl) | dsimp only

theorem Plant.armVacated_reaches {p₀ p : Plant} (h : Plant.Reaches p₀ p) {n_ : Nat} {m_ : Arm} :
    Plant.Reaches p₀ (p.armVacated n_ m_) := by
  unfold Plant.armVacated
  repeat' first
    | with_reducible assumption | with_reducible apply Plant.loseRoll_reaches
    | with_reducible apply Plant.emptyArm_reaches | exact hq.same rfl rfl rfl rfl rfl rfl rfl
    | exact h.same rfl rfl rfl rfl rfl rfl rfl | split | (intro _; rfl) | (intro _; split <;> rfl)
    | (intro _; dsimp only; split <;> rfl) | dsimp only

theorem State.runArmLost_leads {s₀ s : State} (h : State.Leads s₀ s) {n_ : Nat} {phase_ : Phase} :
    State.Leads s₀ (s.runArmLost n_ phase_) := by
  unfold State.runArmLost
  repeat' first
    | ((try lift_lets); intro q; first | (refine (fun (hq : State.Leads s₀ q) => ?_) ?_; rotate_left; subst q; rotate_right; clear_value q) | (refine (fun (hq : Plant.Reaches s₀.plant q) => ?_) ?_; rotate_left; subst q; rotate_right; clear_value q) | clear_value q)
    | with_reducible assumption | with_reducible apply State.modPlant_leads
    | with_reducible apply Plant.standIdle_reaches | with_reducible apply State.modStand_leads
    | with_reducible apply Plant.modStand_reaches | with_reducible apply State.event_leads
    | with_reducible apply Plant.event_reaches | with_reducible apply State.latchFailure_leads
    | with_reducible apply State.abort_leads | with_reducible apply State.fireKnife_leads
    | with_reducible apply State.Leads.plant | split | intro _ _ | (intro _; rfl) | (intro _; split <;> rfl)
    | (intro _; dsimp only; split <;> rfl) | dsimp only

theorem State.spinArmLost_leads {s₀ s : State} (h : State.Leads s₀ s) {n_ : Nat} {phase_ : Phase} :
    State.Leads s₀ (s.spinArmLost n_ phase_) := by
  unfold State.spinArmLost
  repeat' first
    | with_reducible assumption | with_reducible apply State.modStand_leads
    | with_reducible apply Plant.modStand_reaches | with_reducible apply State.event_leads
    | with_reducible apply Plant.event_reaches | with_reducible apply State.fireKnife_leads
    | with_reducible apply State.Leads.plant | split | (intro _; rfl) | (intro _; split <;> rfl)
    | (intro _; dsimp only; split <;> rfl) | dsimp only

theorem State.armRemoved_leads {s₀ s : State} (h : State.Leads s₀ s) {n_ : Nat} {m_ : Arm} :
    State.Leads s₀ (s.armRemoved n_ m_) := by
  unfold State.armRemoved
  repeat' first
    | ((try lift_lets); intro q; first | (refine (fun (hq : State.Leads s₀ q) => ?_) ?_; rotate_left; subst q; rotate_right; clear_value q) | (refine (fun (hq : Plant.Reaches s₀.plant q) => ?_) ?_; rotate_left; subst q; rotate_right; clear_value q) | clear_value q)
    | with_reducible assumption | with_reducible apply State.modPlant_leads
    | with_reducible apply Plant.armVacated_reaches | with_reducible apply State.runArmLost_leads
    | with_reducible apply State.spinArmLost_leads | with_reducible apply State.Leads.plant | split | intro _ _
    | (intro _; rfl) | (intro _; split <;> rfl) | (intro _; dsimp only; split <;> rfl) | dsimp only

theorem State.armInput_leads {s₀ s : State} (h : State.Leads s₀ s) {n_ : Nat} {m_ : Arm} {on_ : Bool} :
    State.Leads s₀ (s.armInput n_ m_ on_) := by
  unfold State.armInput
  repeat' first
    | with_reducible assumption | with_reducible apply State.modPlant_leads
    | with_reducible apply Plant.armArrival_reaches | with_reducible apply State.armRemoved_leads
    | with_reducible apply State.Leads.plant | split | intro _ _ | (intro _; rfl) | (intro _; split <;> rfl)
    | (intro _; dsimp only; split <;> rfl) | dsimp only

theorem State.armLoadedChanged_leads {s₀ s : State} (h : State.Leads s₀ s) {n_ : Nat} {m_ : Arm} {on_ : Bool} :
    State.Leads s₀ (s.armLoadedChanged n_ m_ on_) := by
  unfold State.armLoadedChanged
  repeat' first
    | with_reducible assumption | with_reducible apply State.modPlant_leads
    | with_reducible apply Plant.checkTransfer_reaches | with_reducible apply State.armInput_leads
    | with_reducible apply State.Leads.plant | split | intro _ _ | (intro _; rfl) | (intro _; split <;> rfl)
    | (intro _; dsimp only; split <;> rfl) | dsimp only

theorem Plant.decelStopped_reaches {p₀ p : Plant} (h : Plant.Reaches p₀ p) {n_ : Nat} :
    Plant.Reaches p₀ (p.decelStopped n_) := by
  unfold Plant.decelStopped
  repeat' first
    | with_reducible assumption | with_reducible apply Plant.setArmState_reaches
    | with_reducible apply State.modArm_leads | with_reducible apply Plant.modArm_reaches
    | with_reducible apply State.modStand_leads | with_reducible apply Plant.modStand_reaches
    | exact hq.same rfl rfl rfl rfl rfl rfl rfl | exact h.same rfl rfl rfl rfl rfl rfl rfl | split | (intro _; rfl)
    | (intro _; split <;> rfl) | (intro _; dsimp only; split <;> rfl) | dsimp only

theorem Plant.buttStopped_reaches {p₀ p : Plant} (h : Plant.Reaches p₀ p) {n_ : Nat} {m_ : Arm} :
    Plant.Reaches p₀ (p.buttStopped n_ m_) := by
  unfold Plant.buttStopped
  repeat' first
    | ((try lift_lets); intro q; first | (refine (fun (hq : Plant.Reaches p₀ q) => ?_) ?_; rotate_left; subst q; rotate_right; clear_value q) | clear_value q)
    | with_reducible assumption | with_reducible apply State.modArm_leads | with_reducible apply Plant.modArm_reaches
    | with_reducible apply Plant.send_reaches | with_reducible apply Plant.unloadOrPend_reaches
    | exact hq.same rfl rfl rfl rfl rfl rfl rfl | exact h.same rfl rfl rfl rfl rfl rfl rfl | split | (intro _; rfl)
    | (intro _; split <;> rfl) | (intro _; dsimp only; split <;> rfl) | dsimp only

theorem State.standPressFall_leads {s₀ s : State} (h : State.Leads s₀ s) {n_ : Nat} :
    State.Leads s₀ (s.standPressFall n_) := by
  unfold State.standPressFall
  repeat' first
    | ((try lift_lets); intro q; first | (refine (fun (hq : State.Leads s₀ q) => ?_) ?_; rotate_left; subst q; rotate_right; clear_value q) | (refine (fun (hq : Plant.Reaches s₀.plant q) => ?_) ?_; rotate_left; subst q; rotate_right; clear_value q) | clear_value q)
    | with_reducible assumption | with_reducible apply State.modStand_leads
    | with_reducible apply Plant.modStand_reaches | with_reducible apply State.abort_leads
    | with_reducible apply State.fireKnife_leads | with_reducible apply State.Leads.plant | split | (intro _; rfl)
    | (intro _; split <;> rfl) | (intro _; dsimp only; split <;> rfl) | dsimp only

theorem State.pressFall_leads {s₀ s : State} (h : State.Leads s₀ s) :
    State.Leads s₀ (s.pressFall) := by
  unfold State.pressFall
  repeat' first
    | with_reducible assumption | with_reducible apply State.standPressFall_leads
    | with_reducible apply State.discardTrims_leads | with_reducible apply State.modWaste_leads
    | with_reducible apply State.modPlant_leads | with_reducible apply Plant.pressStopNow_reaches
    | with_reducible apply forEach_leads | with_reducible apply forEach_reaches
    | with_reducible apply State.Leads.plant | split | intro _ _ _ | intro _ _ | (intro _; rfl)
    | (intro _; split <;> rfl) | (intro _; dsimp only; split <;> rfl) | dsimp only

end Sys2Proof.Machine
end

