-- ==== Sys2Proof/Laws/ReachWindow.lean ====
section
/-! SUPPORT. What the operations of Machine/Window.lean can do to the plant. -/
namespace Sys2Proof.Machine

theorem State.losePulses_leads {s₀ s : State} (h : State.Leads s₀ s) {n_ : Nat} {m_ : Arm} :
    State.Leads s₀ (s.losePulses n_ m_) := by
  unfold State.losePulses
  repeat' first
    | ((try lift_lets); intro q; first | (refine (fun (hq : State.Leads s₀ q) => ?_) ?_; rotate_left; subst q; rotate_right; clear_value q) | (refine (fun (hq : Plant.Reaches s₀.plant q) => ?_) ?_; rotate_left; subst q; rotate_right; clear_value q) | clear_value q)
    | with_reducible assumption | with_reducible apply State.modArm_leads | with_reducible apply Plant.modArm_reaches
    | with_reducible apply State.event_leads | with_reducible apply Plant.event_reaches
    | with_reducible apply State.pulseLost_leads | with_reducible apply State.Leads.plant | split | (intro _; rfl)
    | (intro _; split <;> rfl) | (intro _; dsimp only; split <;> rfl) | dsimp only

theorem State.estimatorWindow_leads {s₀ s : State} (h : State.Leads s₀ s) {n_ : Nat} {m_ : Arm} {advance_ : Nat} :
    State.Leads s₀ (s.estimatorWindow n_ m_ advance_) := by
  unfold State.estimatorWindow
  repeat' first
    | with_reducible assumption | with_reducible apply State.modArm_leads | with_reducible apply Plant.modArm_reaches
    | with_reducible apply State.losePulses_leads | with_reducible apply State.Leads.plant | split | (intro _; rfl)
    | (intro _; split <;> rfl) | (intro _; dsimp only; split <;> rfl) | dsimp only

theorem State.pulseLost_leads {s₀ s : State} (h : State.Leads s₀ s) {n_ : Nat} :
    State.Leads s₀ (s.pulseLost n_) := by
  unfold State.pulseLost
  repeat' first
    | with_reducible assumption | with_reducible apply State.losePulses_leads | with_reducible apply State.modArm_leads
    | with_reducible apply State.Leads.plant | split | (intro _; rfl) | (intro _; split <;> rfl)
    | (intro _; dsimp only; split <;> rfl) | dsimp only

theorem State.creditWindow_leads {s₀ s : State} (h : State.Leads s₀ s) {n_ : Nat} {m_ : Arm} {advance_ : Nat} :
    State.Leads s₀ (s.creditWindow n_ m_ advance_) := by
  unfold State.creditWindow
  repeat' first
    | with_reducible assumption | with_reducible apply State.modPlant_leads
    | with_reducible apply Plant.modRoll_reaches | with_reducible apply State.Leads.plant | split | intro _ _
    | (intro _; rfl) | (intro _; split <;> rfl) | (intro _; dsimp only; split <;> rfl) | dsimp only

theorem State.forecast_leads {s₀ s : State} (h : State.Leads s₀ s) {n_ : Nat} :
    State.Leads s₀ (s.forecast n_) := by
  unfold State.forecast
  repeat' first
    | ((try lift_lets); intro q; first | (refine (fun (hq : State.Leads s₀ q) => ?_) ?_; rotate_left; subst q; rotate_right; clear_value q) | (refine (fun (hq : Plant.Reaches s₀.plant q) => ?_) ?_; rotate_left; subst q; rotate_right; clear_value q) | clear_value q)
    | with_reducible assumption | with_reducible apply State.modStand_leads
    | with_reducible apply Plant.modStand_reaches | with_reducible apply State.Leads.plant | split | (intro _; rfl)
    | (intro _; split <;> rfl) | (intro _; dsimp only; split <;> rfl) | dsimp only

theorem State.measureWindow_leads {s₀ s : State} (h : State.Leads s₀ s) {n_ : Nat} {advance_ : Nat} :
    State.Leads s₀ (s.measureWindow n_ advance_) := by
  unfold State.measureWindow
  repeat' first
    | with_reducible assumption | with_reducible apply State.estimatorWindow_leads
    | with_reducible apply State.creditWindow_leads | with_reducible apply State.forecast_leads
    | with_reducible apply State.Leads.plant | split | (intro _; rfl) | (intro _; split <;> rfl)
    | (intro _; dsimp only; split <;> rfl) | dsimp only

theorem State.dutyStep_leads {s₀ s : State} (h : State.Leads s₀ s) {n_ : Nat} :
    State.Leads s₀ (s.dutyStep n_) := by
  unfold State.dutyStep
  repeat' first
    | ((try lift_lets); intro q; first | (refine (fun (hq : State.Leads s₀ q) => ?_) ?_; rotate_left; subst q; rotate_right; clear_value q) | (refine (fun (hq : Plant.Reaches s₀.plant q) => ?_) ?_; rotate_left; subst q; rotate_right; clear_value q) | clear_value q)
    | with_reducible assumption | with_reducible apply State.modArm_leads | with_reducible apply Plant.modArm_reaches
    | with_reducible apply State.Leads.plant | split | (intro _; rfl) | (intro _; split <;> rfl)
    | (intro _; dsimp only; split <;> rfl) | dsimp only

theorem State.runOutStep_leads {s₀ s : State} (h : State.Leads s₀ s) {n_ : Nat} :
    State.Leads s₀ (s.runOutStep n_) := by
  unfold State.runOutStep
  repeat' first
    | with_reducible assumption | with_reducible apply State.modStand_leads
    | with_reducible apply Plant.modStand_reaches | with_reducible apply State.event_leads
    | with_reducible apply Plant.event_reaches | with_reducible apply State.Leads.plant | split | (intro _; rfl)
    | (intro _; split <;> rfl) | (intro _; dsimp only; split <;> rfl) | dsimp only

theorem State.speedStep_leads {s₀ s : State} (h : State.Leads s₀ s) {n_ : Nat} :
    State.Leads s₀ (s.speedStep n_) := by
  unfold State.speedStep
  repeat' first
    | with_reducible assumption | with_reducible apply State.abort_leads | with_reducible apply State.Leads.plant
    | split | (intro _; rfl) | (intro _; split <;> rfl) | (intro _; dsimp only; split <;> rfl) | dsimp only

theorem State.phaseStep_leads {s₀ s : State} (h : State.Leads s₀ s) {n_ : Nat} :
    State.Leads s₀ (s.phaseStep n_) := by
  unfold State.phaseStep
  repeat' first
    | with_reducible assumption | with_reducible apply State.spliceNow_leads
    | with_reducible apply State.enterAccel_leads | with_reducible apply State.modStand_leads
    | with_reducible apply Plant.modStand_reaches | with_reducible apply State.Leads.plant | split | (intro _; rfl)
    | (intro _; split <;> rfl) | (intro _; dsimp only; split <;> rfl) | dsimp only

theorem State.stoppedStep_leads {s₀ s : State} (h : State.Leads s₀ s) {n_ : Nat} :
    State.Leads s₀ (s.stoppedStep n_) := by
  unfold State.stoppedStep
  repeat' first
    | with_reducible assumption | with_reducible apply State.modPlant_leads
    | with_reducible apply Plant.decelStopped_reaches | with_reducible apply Plant.buttStopped_reaches
    | with_reducible apply State.Leads.plant | split | intro _ _ | (intro _; rfl) | (intro _; split <;> rfl)
    | (intro _; dsimp only; split <;> rfl) | dsimp only

theorem State.requestStep_leads {s₀ s : State} (h : State.Leads s₀ s) {n_ : Nat} :
    State.Leads s₀ (s.requestStep n_) := by
  unfold State.requestStep
  repeat' first
    | ((try lift_lets); intro q; first | (refine (fun (hq : State.Leads s₀ q) => ?_) ?_; rotate_left; subst q; rotate_right; clear_value q) | (refine (fun (hq : Plant.Reaches s₀.plant q) => ?_) ?_; rotate_left; subst q; rotate_right; clear_value q) | clear_value q)
    | with_reducible assumption | with_reducible apply Plant.rollRequest_reaches
    | with_reducible apply State.modStand_leads | with_reducible apply Plant.modStand_reaches
    | with_reducible apply State.modPlant_leads | with_reducible apply Plant.withdrawCall_reaches
    | with_reducible refine Plant.rollRequest_pair (by assumption) ?_ | with_reducible apply State.Leads.plant
    | split | intro _ _ | (intro _; rfl) | (intro _; split <;> rfl) | (intro _; dsimp only; split <;> rfl)
    | with_reducible refine State.withPlant_leads ‹State.Leads _ _› ?_ | dsimp only

theorem Plant.urgencyStep_reaches {p₀ p : Plant} (h : Plant.Reaches p₀ p) {n : Nat} :
    Plant.Reaches p₀ (p.urgencyStep n) := by
  unfold Plant.urgencyStep
  split
  · exact h.same rfl rfl rfl rfl rfl rfl (map_num_updateIf _ _ _ fun _ => rfl)
  · exact h

theorem State.spliceWindow_leads {s₀ s : State} (h : State.Leads s₀ s) {n_ : Nat} :
    State.Leads s₀ (s.spliceWindow n_) := by
  unfold State.spliceWindow
  repeat' first
    | with_reducible assumption | with_reducible apply State.dutyStep_leads
    | with_reducible apply State.runOutStep_leads | with_reducible apply State.speedStep_leads
    | with_reducible apply State.phaseStep_leads | with_reducible apply State.stoppedStep_leads
    | with_reducible apply State.requestStep_leads | with_reducible apply State.modPlant_leads
    | with_reducible apply Plant.urgencyStep_reaches | with_reducible apply State.Leads.plant | split | intro _ _
    | (intro _; rfl) | (intro _; split <;> rfl) | (intro _; dsimp only; split <;> rfl) | dsimp only

theorem State.standWindow_leads {s₀ s : State} (h : State.Leads s₀ s) {n_ : Nat} :
    State.Leads s₀ (s.standWindow n_) := by
  unfold State.standWindow
  repeat' first
    | ((try lift_lets); intro q; first | (refine (fun (hq : State.Leads s₀ q) => ?_) ?_; rotate_left; subst q; rotate_right; clear_value q) | (refine (fun (hq : Plant.Reaches s₀.plant q) => ?_) ?_; rotate_left; subst q; rotate_right; clear_value q) | clear_value q)
    | with_reducible assumption | with_reducible apply State.modWeb_leads
    | with_reducible apply State.measureWindow_leads | with_reducible apply State.spliceWindow_leads
    | with_reducible apply State.Leads.plant | split | (intro _; rfl) | (intro _; split <;> rfl)
    | (intro _; dsimp only; split <;> rfl) | dsimp only

theorem State.speedWindow_leads {s₀ s : State} (h : State.Leads s₀ s) :
    State.Leads s₀ (s.speedWindow) := by
  unfold State.speedWindow
  repeat' first
    | ((try lift_lets); intro q; first | (refine (fun (hq : State.Leads s₀ q) => ?_) ?_; rotate_left; subst q; rotate_right; clear_value q) | (refine (fun (hq : Plant.Reaches s₀.plant q) => ?_) ?_; rotate_left; subst q; rotate_right; clear_value q) | clear_value q)
    | with_reducible assumption | with_reducible apply State.modPress_leads
    | with_reducible apply State.standWindow_leads | with_reducible apply State.bringAll_leads
    | with_reducible apply State.modPlant_leads | with_reducible apply Plant.pressStopNow_reaches
    | with_reducible apply State.settle_leads | with_reducible apply Plant.settle_reaches
    | with_reducible apply forEach_leads | with_reducible apply forEach_reaches
    | with_reducible apply State.Leads.plant | split | intro _ _ _ | intro _ _ | (intro _; rfl)
    | (intro _; split <;> rfl) | (intro _; dsimp only; split <;> rfl) | dsimp only

end Sys2Proof.Machine
end

