-- ==== Sys2Proof/Laws/ReachCarts.lean ====
section
/-! SUPPORT. What the operations of Machine/Carts.lean can do to the plant. -/
namespace Sys2Proof.Machine
-- One theorem at a time: side by side, the proofs take a thread's stack each.
set_option Elab.async false

theorem Plant.occupancyOn_reaches {p₀ p : Plant} (h : Plant.Reaches p₀ p) {n_ : Nat} :
    Plant.Reaches p₀ (p.occupancyOn n_) := by
  unfold Plant.occupancyOn
  repeat' first
    | with_reducible assumption | with_reducible apply Plant.blockSection_reaches
    | exact hq.same rfl rfl rfl rfl rfl rfl rfl | exact h.same rfl rfl rfl rfl rfl rfl rfl | split | (intro _; rfl)
    | (intro _; split <;> rfl) | (intro _; dsimp only; split <;> rfl) | dsimp only

theorem Plant.manualLeaves_reaches {p₀ p : Plant} (h : Plant.Reaches p₀ p) {n_ : Nat} {cart_ : Nat} :
    Plant.Reaches p₀ (p.manualLeaves n_ cart_) := by
  unfold Plant.manualLeaves
  repeat' first
    | with_reducible assumption | with_reducible apply Plant.releaseSections_reaches
    | with_reducible apply Plant.modCart_reaches | exact hq.same rfl rfl rfl rfl rfl rfl rfl
    | exact h.same rfl rfl rfl rfl rfl rfl rfl | split | (intro _; rfl) | (intro _; split <;> rfl)
    | (intro _; dsimp only; split <;> rfl) | dsimp only

theorem Plant.occupancyOff_reaches {p₀ p : Plant} (h : Plant.Reaches p₀ p) {n_ : Nat} :
    Plant.Reaches p₀ (p.occupancyOff n_) := by
  unfold Plant.occupancyOff
  repeat' first
    | with_reducible assumption | with_reducible apply Plant.freeSection_reaches
    | with_reducible apply Plant.manualLeaves_reaches | exact hq.same rfl rfl rfl rfl rfl rfl rfl
    | exact h.same rfl rfl rfl rfl rfl rfl rfl | split | (intro _; rfl) | (intro _; split <;> rfl)
    | (intro _; dsimp only; split <;> rfl) | dsimp only

theorem Plant.occupancyChanged_reaches {p₀ p : Plant} (h : Plant.Reaches p₀ p) {n_ : Nat} {on_ : Bool} :
    Plant.Reaches p₀ (p.occupancyChanged n_ on_) := by
  unfold Plant.occupancyChanged
  repeat' first
    | with_reducible assumption | with_reducible apply Plant.occupancyOn_reaches
    | with_reducible apply Plant.occupancyOff_reaches | split | (intro _; rfl) | (intro _; split <;> rfl)
    | (intro _; dsimp only; split <;> rfl) | dsimp only

theorem Plant.noteLoad_reaches {p₀ p : Plant} (h : Plant.Reaches p₀ p) {cart_ : Nat} {loaded_ : Bool} :
    Plant.Reaches p₀ (p.noteLoad cart_ loaded_) := by
  unfold Plant.noteLoad
  repeat' first
    | with_reducible assumption | with_reducible apply Plant.modCart_reaches
    | exact hq.same rfl rfl rfl rfl rfl rfl rfl | exact h.same rfl rfl rfl rfl rfl rfl rfl | split | (intro _; rfl)
    | (intro _; split <;> rfl) | (intro _; dsimp only; split <;> rfl) | dsimp only

theorem Plant.confirmTransit_reaches {p₀ p : Plant} (h : Plant.Reaches p₀ p) {cart_ : Nat} :
    Plant.Reaches p₀ (p.confirmTransit cart_) := by
  unfold Plant.confirmTransit
  repeat' first
    | with_reducible assumption | with_reducible apply Plant.modCart_reaches
    | exact hq.same rfl rfl rfl rfl rfl rfl rfl | exact h.same rfl rfl rfl rfl rfl rfl rfl | split | (intro _; rfl)
    | (intro _; split <;> rfl) | (intro _; dsimp only; split <;> rfl) | dsimp only

theorem Plant.confirmEntry_reaches {p₀ p : Plant} (h : Plant.Reaches p₀ p) {c_ : Cart} {n_ : Nat} :
    Plant.Reaches p₀ (p.confirmEntry c_ n_) := by
  unfold Plant.confirmEntry
  repeat' first
    | ((try lift_lets); intro q; first | (refine (fun (hq : Plant.Reaches p₀ q) => ?_) ?_; rotate_left; subst q; rotate_right; clear_value q) | clear_value q)
    | with_reducible assumption | with_reducible apply Plant.modSection_reaches
    | with_reducible apply Plant.modCart_reaches | with_reducible apply Plant.releaseSections_reaches
    | with_reducible apply Plant.foundIn_reaches | with_reducible apply Plant.confirmTransit_reaches
    | exact hq.same rfl rfl rfl rfl rfl rfl rfl | exact h.same rfl rfl rfl rfl rfl rfl rfl | split | (intro _; rfl)
    | (intro _; split <;> rfl) | (intro _; dsimp only; split <;> rfl) | dsimp only

theorem Plant.entryConflict_reaches {p₀ p : Plant} (h : Plant.Reaches p₀ p) {n_ : Nat} {k_ : Nat} :
    Plant.Reaches p₀ (p.entryConflict n_ k_) := by
  unfold Plant.entryConflict
  repeat' first
    | with_reducible assumption | with_reducible apply Plant.blockSection_reaches
    | with_reducible apply Plant.enterFault_reaches | split | (intro _; rfl) | (intro _; split <;> rfl)
    | (intro _; dsimp only; split <;> rfl) | dsimp only

theorem Plant.unexpectedIn_reaches {p₀ p : Plant} (h : Plant.Reaches p₀ p) {cart_ : Nat} {n_ : Nat} :
    Plant.Reaches p₀ (p.unexpectedIn cart_ n_) := by
  unfold Plant.unexpectedIn
  repeat' first
    | with_reducible assumption | with_reducible apply Plant.transferOff_reaches | with_reducible apply Plant.foundIn_reaches
    | with_reducible apply Plant.enterFault_reaches | exact hq.same rfl rfl rfl rfl rfl rfl rfl
    | exact h.same rfl rfl rfl rfl rfl rfl rfl | split | (intro _; rfl) | (intro _; split <;> rfl)
    | (intro _; dsimp only; split <;> rfl) | dsimp only

theorem Plant.manualIn_reaches {p₀ p : Plant} (h : Plant.Reaches p₀ p) {cart_ : Nat} {n_ : Nat} :
    Plant.Reaches p₀ (p.manualIn cart_ n_) := by
  unfold Plant.manualIn
  repeat' first
    | ((try lift_lets); intro q; first | (refine (fun (hq : Plant.Reaches p₀ q) => ?_) ?_; rotate_left; subst q; rotate_right; clear_value q) | clear_value q)
    | with_reducible assumption | with_reducible apply Plant.modSection_reaches
    | with_reducible apply Plant.entryConflict_reaches | with_reducible apply Plant.foundIn_reaches
    | exact hq.same rfl rfl rfl rfl rfl rfl rfl | exact h.same rfl rfl rfl rfl rfl rfl rfl | split | (intro _; rfl)
    | (intro _; split <;> rfl) | (intro _; dsimp only; split <;> rfl) | dsimp only

theorem Plant.manualRead_reaches {p₀ p : Plant} (h : Plant.Reaches p₀ p) {c : Cart} {move : Plant → Plant}
    (hm : ∀ q, Plant.Reaches p₀ q → Plant.Reaches p₀ (move q)) : Plant.Reaches p₀ (p.manualRead c move) := by
  unfold Plant.manualRead
  split
  · exact hm _ h
  · exact Plant.event_reaches (hm _ (Plant.enterManual_reaches h))

theorem Plant.autoIn_reaches {p₀ p : Plant} (h : Plant.Reaches p₀ p) {cart_ : Nat} {n_ : Nat} :
    Plant.Reaches p₀ (p.autoIn cart_ n_) := by
  unfold Plant.autoIn
  repeat' first
    | with_reducible assumption | with_reducible apply Plant.foundIn_reaches
    | with_reducible apply Plant.confirmEntry_reaches | with_reducible apply Plant.entryConflict_reaches
    | with_reducible apply Plant.unexpectedIn_reaches | with_reducible apply Plant.blockSection_reaches
    | exact hq.same rfl rfl rfl rfl rfl rfl rfl | exact h.same rfl rfl rfl rfl rfl rfl rfl | split | (intro _; rfl)
    | (intro _; split <;> rfl) | (intro _; dsimp only; split <;> rfl) | dsimp only

theorem Plant.sectionRead_reaches {p₀ p : Plant} (h : Plant.Reaches p₀ p) {n_ : Nat} {cart_ : Nat} {manual_ : Bool} {loaded_ : Bool} :
    Plant.Reaches p₀ (p.sectionRead n_ cart_ manual_ loaded_) := by
  unfold Plant.sectionRead
  repeat' first
    | ((try lift_lets); intro q; first | (refine (fun (hq : Plant.Reaches p₀ q) => ?_) ?_; rotate_left; subst q; rotate_right; clear_value q) | clear_value q)
    | with_reducible assumption | with_reducible apply Plant.noteLoad_reaches
    | with_reducible apply Plant.manualRead_reaches | with_reducible apply Plant.manualIn_reaches
    | with_reducible apply Plant.autoIn_reaches | exact hq.same rfl rfl rfl rfl rfl rfl rfl
    | exact h.same rfl rfl rfl rfl rfl rfl rfl | split | intro _ _ | (intro _; rfl) | (intro _; split <;> rfl)
    | (intro _; dsimp only; split <;> rfl) | dsimp only

theorem Plant.arrive_reaches {p₀ p : Plant} (h : Plant.Reaches p₀ p) {c_ : Cart} {x_ : Nat} :
    Plant.Reaches p₀ (p.arrive c_ x_) := by
  unfold Plant.arrive
  repeat' first
    | ((try lift_lets); intro q; first | (refine (fun (hq : Plant.Reaches p₀ q) => ?_) ?_; rotate_left; subst q; rotate_right; clear_value q) | clear_value q)
    | with_reducible assumption | with_reducible apply Plant.releaseSections_reaches
    | with_reducible apply Plant.setPoint_reaches | with_reducible apply Plant.foundAt_reaches
    | with_reducible apply Plant.modCart_reaches | exact hq.same rfl rfl rfl rfl rfl rfl rfl
    | exact h.same rfl rfl rfl rfl rfl rfl rfl | split | (intro _; rfl) | (intro _; split <;> rfl)
    | (intro _; dsimp only; split <;> rfl) | dsimp only

theorem Plant.arriveKept_reaches {p₀ p : Plant} (h : Plant.Reaches p₀ p) {c_ : Cart} {x_ : Nat} {kept_ : Leg} :
    Plant.Reaches p₀ (p.arriveKept c_ x_ kept_) := by
  unfold Plant.arriveKept
  repeat' first
    | ((try lift_lets); intro q; first | (refine (fun (hq : Plant.Reaches p₀ q) => ?_) ?_; rotate_left; subst q; rotate_right; clear_value q) | clear_value q)
    | with_reducible assumption | with_reducible apply Plant.arrive_reaches
    | with_reducible apply Plant.modCart_reaches | exact hq.same rfl rfl rfl rfl rfl rfl rfl
    | exact h.same rfl rfl rfl rfl rfl rfl rfl | split | (intro _; rfl) | (intro _; split <;> rfl)
    | (intro _; dsimp only; split <;> rfl) | dsimp only

theorem Plant.autoAtStop_reaches {p₀ p : Plant} (h : Plant.Reaches p₀ p) {c_ : Cart} {x_ : Nat} :
    Plant.Reaches p₀ (p.autoAtStop c_ x_) := by
  unfold Plant.autoAtStop
  repeat' first
    | with_reducible assumption | with_reducible apply Plant.transferOff_reaches | with_reducible apply Plant.arriveKept_reaches
    | with_reducible apply Plant.arrive_reaches | with_reducible apply Plant.checkTransfer_reaches
    | with_reducible apply Plant.foundAt_reaches | with_reducible apply Plant.enterFault_reaches
    | exact hq.same rfl rfl rfl rfl rfl rfl rfl | exact h.same rfl rfl rfl rfl rfl rfl rfl | split | (intro _; rfl)
    | (intro _; split <;> rfl) | (intro _; dsimp only; split <;> rfl) | dsimp only

theorem Plant.backInAuto_reaches {p₀ p : Plant} (h : Plant.Reaches p₀ p) {cart_ : Nat} {x_ : Nat} :
    Plant.Reaches p₀ (p.backInAuto cart_ x_) := by
  unfold Plant.backInAuto
  repeat' first
    | ((try lift_lets); intro q; first | (refine (fun (hq : Plant.Reaches p₀ q) => ?_) ?_; rotate_left; subst q; rotate_right; clear_value q) | clear_value q)
    | with_reducible assumption | with_reducible apply Plant.releaseSections_reaches
    | with_reducible apply Plant.foundAt_reaches | with_reducible apply Plant.modCart_reaches
    | with_reducible apply State.idle_leads | with_reducible apply State.event_leads
    | with_reducible apply Plant.event_reaches | exact hq.same rfl rfl rfl rfl rfl rfl rfl
    | exact h.same rfl rfl rfl rfl rfl rfl rfl | split | (intro _; rfl) | (intro _; split <;> rfl)
    | (intro _; dsimp only; split <;> rfl) | dsimp only

theorem Plant.reconcileCart_reaches {p₀ p : Plant} (h : Plant.Reaches p₀ p) {cart_ : Nat} :
    Plant.Reaches p₀ (p.reconcileCart cart_) := by
  unfold Plant.reconcileCart
  repeat' first
    | with_reducible assumption | with_reducible apply Plant.loseRoll_reaches
    | with_reducible apply Plant.modCart_reaches | with_reducible apply State.event_leads
    | with_reducible apply Plant.event_reaches | (with_reducible refine Plant.unknown_reaches (by assumption) rfl ?_)
    | exact hq.same rfl rfl rfl rfl rfl rfl rfl | exact h.same rfl rfl rfl rfl rfl rfl rfl | split | (intro _; rfl)
    | (intro _; split <;> rfl) | (intro _; dsimp only; split <;> rfl) | dsimp only

theorem Plant.reconcileStop_reaches {p₀ p : Plant} (h : Plant.Reaches p₀ p) {c_ : Cart} {x_ : Nat} :
    Plant.Reaches p₀ (p.reconcileStop c_ x_) := by
  unfold Plant.reconcileStop
  repeat' first
    | ((try lift_lets); intro q; first | (refine (fun (hq : Plant.Reaches p₀ q) => ?_) ?_; rotate_left; subst q; rotate_right; clear_value q) | clear_value q)
    | with_reducible assumption | with_reducible apply Plant.moveToCart_reaches
    | with_reducible apply Plant.moveToStop_reaches | with_reducible apply Plant.prepArrival_reaches
    | with_reducible apply Plant.shipmentPlaced_reaches | with_reducible apply Plant.rechooseBound_reaches
    | with_reducible apply Plant.autoStow_reaches | with_reducible apply Plant.stopArrival_reaches
    | with_reducible apply Plant.stopRemoval_reaches | with_reducible apply Plant.reconcileCart_reaches
    | exact hq.same rfl rfl rfl rfl rfl rfl rfl | exact h.same rfl rfl rfl rfl rfl rfl rfl | split | (intro _; rfl)
    | (intro _; split <;> rfl) | (intro _; dsimp only; split <;> rfl) | dsimp only

theorem State.reconcileStand_leads {s₀ s : State} (h : State.Leads s₀ s) {c_ : Cart} {x_ : Nat} {n_ : Nat} :
    State.Leads s₀ (s.reconcileStand c_ x_ n_) := by
  unfold State.reconcileStand
  repeat' first
    | ((try lift_lets); intro q; first | (refine (fun (hq : State.Leads s₀ q) => ?_) ?_; rotate_left; subst q; rotate_right; clear_value q) | (refine (fun (hq : Plant.Reaches s₀.plant q) => ?_) ?_; rotate_left; subst q; rotate_right; clear_value q) | clear_value q)
    | with_reducible assumption | with_reducible apply State.modPlant_leads
    | with_reducible apply Plant.reconcileCart_reaches | with_reducible apply Plant.moveToCart_reaches
    | with_reducible apply Plant.moveToStop_reaches | with_reducible apply State.armInput_leads
    | with_reducible apply State.Leads.plant | split | intro _ _ | (intro _; rfl) | (intro _; split <;> rfl)
    | (intro _; dsimp only; split <;> rfl) | dsimp only

theorem Plant.afterAuto_reaches {p₀ p : Plant} (h : Plant.Reaches p₀ p) {cart_ : Nat} :
    Plant.Reaches p₀ (p.afterAuto cart_) := by
  unfold Plant.afterAuto
  repeat' first
    | with_reducible assumption | with_reducible apply Plant.modRoll_reaches
    | with_reducible apply Plant.modCart_reaches | with_reducible apply Plant.onCartOrPend_reaches
    | exact hq.same rfl rfl rfl rfl rfl rfl rfl | exact h.same rfl rfl rfl rfl rfl rfl rfl | split | (intro _; rfl)
    | (intro _; split <;> rfl) | (intro _; dsimp only; split <;> rfl) | dsimp only

theorem State.returnToAuto_leads {s₀ s : State} (h : State.Leads s₀ s) {cart_ : Nat} {x_ : Nat} :
    State.Leads s₀ (s.returnToAuto cart_ x_) := by
  unfold State.returnToAuto
  repeat' first
    | ((try lift_lets); intro q; first | (refine (fun (hq : State.Leads s₀ q) => ?_) ?_; rotate_left; subst q; rotate_right; clear_value q) | (refine (fun (hq : Plant.Reaches s₀.plant q) => ?_) ?_; rotate_left; subst q; rotate_right; clear_value q) | clear_value q)
    | with_reducible assumption | with_reducible apply State.modPlant_leads
    | with_reducible apply Plant.backInAuto_reaches | with_reducible apply State.reconcileStand_leads
    | with_reducible apply Plant.reconcileStop_reaches | with_reducible apply Plant.afterAuto_reaches
    | with_reducible apply State.Leads.plant | split | intro _ _ | (intro _; rfl) | (intro _; split <;> rfl)
    | (intro _; dsimp only; split <;> rfl) | dsimp only

theorem State.stopRead_leads {s₀ s : State} (h : State.Leads s₀ s) {x_ : Nat} {cart_ : Nat} {manual_ : Bool} {loaded_ : Bool} :
    State.Leads s₀ (s.stopRead x_ cart_ manual_ loaded_) := by
  unfold State.stopRead
  repeat' first
    | ((try lift_lets); intro q; first | (refine (fun (hq : State.Leads s₀ q) => ?_) ?_; rotate_left; subst q; rotate_right; clear_value q) | (refine (fun (hq : Plant.Reaches s₀.plant q) => ?_) ?_; rotate_left; subst q; rotate_right; clear_value q) | clear_value q)
    | with_reducible assumption | with_reducible apply State.modPlant_leads
    | with_reducible apply Plant.noteLoad_reaches | with_reducible apply Plant.manualRead_reaches
    | with_reducible apply Plant.foundAt_reaches | with_reducible apply State.returnToAuto_leads
    | with_reducible apply Plant.autoAtStop_reaches | with_reducible apply State.Leads.plant | split | intro _ _
    | (intro _; rfl) | (intro _; split <;> rfl) | (intro _; dsimp only; split <;> rfl) | dsimp only

theorem Plant.depart_reaches {p₀ p : Plant} (h : Plant.Reaches p₀ p) {c_ : Cart} {x_ : Nat} {n_ : Nat} :
    Plant.Reaches p₀ (p.depart c_ x_ n_) := by
  unfold Plant.depart
  repeat' first
    | with_reducible assumption | with_reducible apply Plant.modSection_reaches
    | with_reducible apply Plant.leaveStop_reaches | with_reducible apply Plant.modCart_reaches
    | with_reducible apply Plant.confirmTransit_reaches | exact hq.same rfl rfl rfl rfl rfl rfl rfl
    | exact h.same rfl rfl rfl rfl rfl rfl rfl | split | (intro _; rfl) | (intro _; split <;> rfl)
    | (intro _; dsimp only; split <;> rfl) | dsimp only

theorem Plant.stopGone_reaches {p₀ p : Plant} (h : Plant.Reaches p₀ p) {x_ : Nat} {cart_ : Nat} :
    Plant.Reaches p₀ (p.stopGone x_ cart_) := by
  unfold Plant.stopGone
  repeat' first
    | ((try lift_lets); intro q; first | (refine (fun (hq : Plant.Reaches p₀ q) => ?_) ?_; rotate_left; subst q; rotate_right; clear_value q) | clear_value q)
    | with_reducible assumption | with_reducible apply Plant.leaveStop_reaches
    | with_reducible apply Plant.modCart_reaches | with_reducible apply Plant.depart_reaches
    | exact hq.same rfl rfl rfl rfl rfl rfl rfl | exact h.same rfl rfl rfl rfl rfl rfl rfl | split | (intro _; rfl)
    | (intro _; split <;> rfl) | (intro _; dsimp only; split <;> rfl) | dsimp only

theorem Plant.startWaitEnd_reaches {p₀ p : Plant} (h : Plant.Reaches p₀ p) {cart_ : Nat} :
    Plant.Reaches p₀ (p.startWaitEnd cart_) := by
  unfold Plant.startWaitEnd
  repeat' first
    | ((try lift_lets); intro q; first | (refine (fun (hq : Plant.Reaches p₀ q) => ?_) ?_; rotate_left; subst q; rotate_right; clear_value q) | clear_value q)
    | with_reducible assumption | with_reducible apply Plant.warningOff_reaches
    | with_reducible apply Plant.modCart_reaches | exact hq.same rfl rfl rfl rfl rfl rfl rfl
    | exact h.same rfl rfl rfl rfl rfl rfl rfl | split | (intro _; rfl) | (intro _; split <;> rfl)
    | (intro _; dsimp only; split <;> rfl) | dsimp only

theorem Plant.transitEnd_reaches {p₀ p : Plant} (h : Plant.Reaches p₀ p) {cart_ : Nat} :
    Plant.Reaches p₀ (p.transitEnd cart_) := by
  unfold Plant.transitEnd
  repeat' first
    | with_reducible assumption | with_reducible apply Plant.enterFault_reaches
    | exact hq.same rfl rfl rfl rfl rfl rfl rfl | exact h.same rfl rfl rfl rfl rfl rfl rfl | split | (intro _; rfl)
    | (intro _; split <;> rfl) | (intro _; dsimp only; split <;> rfl) | dsimp only

theorem Plant.transferEnd_reaches {p₀ p : Plant} (h : Plant.Reaches p₀ p) {cart_ : Nat} :
    Plant.Reaches p₀ (p.transferEnd cart_) := by
  unfold Plant.transferEnd
  repeat' first
    | with_reducible assumption | with_reducible apply Plant.enterFault_reaches
    | exact hq.same rfl rfl rfl rfl rfl rfl rfl | exact h.same rfl rfl rfl rfl rfl rfl rfl | split | (intro _; rfl)
    | (intro _; split <;> rfl) | (intro _; dsimp only; split <;> rfl) | dsimp only

theorem Plant.startAgain_reaches {p₀ p : Plant} (h : Plant.Reaches p₀ p) {cart_ : Nat} :
    Plant.Reaches p₀ (p.startAgain cart_) := by
  unfold Plant.startAgain
  repeat' first
    | ((try lift_lets); intro q; first | (refine (fun (hq : Plant.Reaches p₀ q) => ?_) ?_; rotate_left; subst q; rotate_right; clear_value q) | clear_value q)
    | with_reducible assumption | with_reducible apply Plant.warningOff_reaches
    | with_reducible apply Plant.modCart_reaches | exact hq.same rfl rfl rfl rfl rfl rfl rfl
    | exact h.same rfl rfl rfl rfl rfl rfl rfl | split | (intro _; rfl) | (intro _; split <;> rfl)
    | (intro _; dsimp only; split <;> rfl) | dsimp only

theorem Plant.loseSection_reaches {p₀ p : Plant} (h : Plant.Reaches p₀ p) {n_ : Nat} :
    Plant.Reaches p₀ (p.loseSection n_) := by
  unfold Plant.loseSection
  repeat' first
    | with_reducible assumption | with_reducible apply Plant.blockSection_reaches
    | with_reducible apply Plant.startAgain_reaches | with_reducible apply Plant.enterFault_reaches
    | exact hq.same rfl rfl rfl rfl rfl rfl rfl | exact h.same rfl rfl rfl rfl rfl rfl rfl | split | (intro _; rfl)
    | (intro _; split <;> rfl) | (intro _; dsimp only; split <;> rfl) | dsimp only

theorem Plant.loseStop_reaches {p₀ p : Plant} (h : Plant.Reaches p₀ p) {x_ : Nat} :
    Plant.Reaches p₀ (p.loseStop x_) := by
  unfold Plant.loseStop
  repeat' first
    | ((try lift_lets); intro q; first | (refine (fun (hq : Plant.Reaches p₀ q) => ?_) ?_; rotate_left; subst q; rotate_right; clear_value q) | clear_value q)
    | with_reducible assumption | with_reducible apply Plant.enterFault_reaches
    | with_reducible apply Plant.modStop_reaches | exact hq.same rfl rfl rfl rfl rfl rfl rfl
    | exact h.same rfl rfl rfl rfl rfl rfl rfl | split | (intro _; rfl) | (intro _; split <;> rfl)
    | (intro _; dsimp only; split <;> rfl) | dsimp only

theorem Plant.loseTasks_reaches {p₀ p : Plant} (h : Plant.Reaches p₀ p) {x_ : Nat} :
    Plant.Reaches p₀ (p.loseTasks x_) := by
  unfold Plant.loseTasks
  repeat' first
    | ((try lift_lets); intro q; first | (refine (fun (hq : Plant.Reaches p₀ q) => ?_) ?_; rotate_left; subst q; rotate_right; clear_value q) | clear_value q)
    | with_reducible assumption | with_reducible apply Plant.backToWaiting_reaches
    | with_reducible apply Plant.giveParkLeg_reaches | with_reducible apply Plant.rechooseBound_reaches
    | with_reducible apply forEach_reaches | exact hq.same rfl rfl rfl rfl rfl rfl rfl
    | exact h.same rfl rfl rfl rfl rfl rfl rfl | split | intro _ _ _ | (intro _; rfl) | (intro _; split <;> rfl)
    | (intro _; dsimp only; split <;> rfl) | dsimp only

theorem Plant.trackLost_reaches {p₀ p : Plant} (h : Plant.Reaches p₀ p) {m_ : Nat} :
    Plant.Reaches p₀ (p.trackLost m_) := by
  unfold Plant.trackLost
  repeat' first
    | ((try lift_lets); intro q; first | (refine (fun (hq : Plant.Reaches p₀ q) => ?_) ?_; rotate_left; subst q; rotate_right; clear_value q) | clear_value q)
    | with_reducible assumption | with_reducible apply Plant.loseSection_reaches
    | with_reducible apply Plant.loseStop_reaches | with_reducible apply Plant.loseTasks_reaches
    | with_reducible apply forEach_reaches | split | intro _ _ _ | (intro _; rfl) | (intro _; split <;> rfl)
    | (intro _; dsimp only; split <;> rfl) | dsimp only

theorem Plant.loseModule_reaches {p₀ p : Plant} (h : Plant.Reaches p₀ p) {m_ : Nat} :
    Plant.Reaches p₀ (p.loseModule m_) := by
  unfold Plant.loseModule
  repeat' first
    | ((try lift_lets); intro q; first | (refine (fun (hq : Plant.Reaches p₀ q) => ?_) ?_; rotate_left; subst q; rotate_right; clear_value q) | clear_value q)
    | with_reducible assumption | with_reducible apply Plant.modModule_reaches
    | with_reducible apply Plant.trackLost_reaches | with_reducible apply State.settle_leads
    | with_reducible apply Plant.settle_reaches | exact hq.same rfl rfl rfl rfl rfl rfl rfl
    | exact h.same rfl rfl rfl rfl rfl rfl rfl | split | (intro _; rfl) | (intro _; split <;> rfl)
    | (intro _; dsimp only; split <;> rfl) | dsimp only

theorem Plant.sectionBack_reaches {p₀ p : Plant} (h : Plant.Reaches p₀ p) {n_ : Nat} :
    Plant.Reaches p₀ (p.sectionBack n_) := by
  unfold Plant.sectionBack
  repeat' first
    | with_reducible assumption | with_reducible apply Plant.freeSection_reaches
    | exact hq.same rfl rfl rfl rfl rfl rfl rfl | exact h.same rfl rfl rfl rfl rfl rfl rfl | split | (intro _; rfl)
    | (intro _; split <;> rfl) | (intro _; dsimp only; split <;> rfl) | dsimp only

theorem Plant.stopBack_reaches {p₀ p : Plant} (h : Plant.Reaches p₀ p) {x_ : Nat} :
    Plant.Reaches p₀ (p.stopBack x_) := by
  unfold Plant.stopBack
  repeat' first
    | with_reducible assumption | with_reducible apply Plant.stopArrival_reaches
    | with_reducible apply Plant.stopRemoval_reaches | exact hq.same rfl rfl rfl rfl rfl rfl rfl
    | exact h.same rfl rfl rfl rfl rfl rfl rfl | split | (intro _; rfl) | (intro _; split <;> rfl)
    | (intro _; dsimp only; split <;> rfl) | dsimp only

theorem Plant.trackBack_reaches {p₀ p : Plant} (h : Plant.Reaches p₀ p) {m_ : Nat} :
    Plant.Reaches p₀ (p.trackBack m_) := by
  unfold Plant.trackBack
  repeat' first
    | with_reducible assumption | with_reducible apply Plant.sectionBack_reaches
    | with_reducible apply Plant.stopBack_reaches | with_reducible apply forEach_reaches | split | intro _ _ _
    | (intro _; rfl) | (intro _; split <;> rfl) | (intro _; dsimp only; split <;> rfl) | dsimp only

end Sys2Proof.Machine
end

