-- ==== Sys2Proof/Laws/ReachNotice.lean ====
section
/-! SUPPORT. What the operations of Machine/Notice.lean can do to the plant. -/
namespace Sys2Proof.Machine
-- One theorem at a time: side by side, the proofs take a thread's stack each.
set_option Elab.async false

theorem Roll.applyFields_num (r : Roll) (s : Snapshot) (spin : Bool) : (r.applyFields s spin).num = r.num := by
  unfold Roll.applyFields
  cases spin <;> cases r.fieldMode <;> rfl

theorem Plant.applyNotice_reaches {p₀ p : Plant} (h : Plant.Reaches p₀ p) {k : Handle} {s : Snapshot} :
    Plant.Reaches p₀ (p.applyNotice k s) :=
  Plant.modRoll_reaches h fun r => r.applyFields_num s _

theorem Plant.identify_reaches {p₀ p : Plant} (h : Plant.Reaches p₀ p) {k : Handle} {s : Snapshot}
    (fresh : p.holderOf s.num = none) : Plant.Reaches p₀ (p.identify k s) :=
  (Plant.applyNotice_reaches h).trans
    (.name _ k s.num (Plant.holderOf_modRoll (fun r => r.applyFields_num s _) fresh))

theorem State.recordFolder_leads {s₀ s : State} (h : State.Leads s₀ s) {n_ : Nat} {h_ : Handle} :
    State.Leads s₀ (s.recordFolder n_ h_) := by
  unfold State.recordFolder
  repeat' first
    | with_reducible assumption | with_reducible apply State.modWasteStand_leads
    | with_reducible apply State.Leads.plant | split | (intro _; rfl) | (intro _; split <;> rfl)
    | (intro _; dsimp only; split <;> rfl) | dsimp only

theorem State.recordAtStop_leads {s₀ s : State} (h : State.Leads s₀ s) {x_ : Nat} {h_ : Handle} :
    State.Leads s₀ (s.recordAtStop x_ h_) := by
  unfold State.recordAtStop
  repeat' first
    | with_reducible assumption | with_reducible apply State.modPlant_leads
    | with_reducible apply Plant.modRoll_reaches | with_reducible apply Plant.placeAt_reaches
    | with_reducible apply Plant.autoStow_reaches | with_reducible apply State.Leads.plant | split | intro _ _
    | (intro _; rfl) | (intro _; split <;> rfl) | (intro _; dsimp only; split <;> rfl) | dsimp only

theorem State.recordOnArm_leads {s₀ s : State} (h : State.Leads s₀ s) {n_ : Nat} {m_ : Arm} {h_ : Handle} :
    State.Leads s₀ (s.recordOnArm n_ m_ h_) := by
  unfold State.recordOnArm
  repeat' first
    | ((try lift_lets); intro q; first | (refine (fun (hq : State.Leads s₀ q) => ?_) ?_; rotate_left; subst q; rotate_right; clear_value q) | (refine (fun (hq : Plant.Reaches s₀.plant q) => ?_) ?_; rotate_left; subst q; rotate_right; clear_value q) | clear_value q)
    | with_reducible assumption | with_reducible apply State.modPlant_leads
    | with_reducible apply Plant.modRoll_reaches | with_reducible apply State.modArm_leads
    | with_reducible apply Plant.modArm_reaches | with_reducible apply Plant.modStand_reaches
    | with_reducible apply State.recordFolder_leads
    | with_reducible apply Plant.unloadOrPend_reaches | with_reducible apply State.Leads.plant | split | intro _ _
    | (intro _; rfl) | (intro _; split <;> rfl) | (intro _; dsimp only; split <;> rfl) | dsimp only

theorem State.recordAt_leads {s₀ s : State} (h : State.Leads s₀ s) {pl_ : Place} {h_ : Handle} :
    State.Leads s₀ (s.recordAt pl_ h_) := by
  unfold State.recordAt
  repeat' first
    | with_reducible assumption | with_reducible apply State.recordAtStop_leads
    | with_reducible apply State.recordOnArm_leads | with_reducible apply State.Leads.plant | split | (intro _; rfl)
    | (intro _; split <;> rfl) | (intro _; dsimp only; split <;> rfl) | dsimp only

theorem State.merge_leads {s₀ s : State} (h : State.Leads s₀ s) {x u : Handle} {ru : Roll} :
    State.Leads s₀ (s.merge x u ru) := by
  unfold State.merge
  refine State.modWaste_leads (State.modPlant_leads h ?_)
  intro q hq
  refine Plant.freeRoll_reaches (Plant.swapHandles_reaches (Plant.modRoll_reaches (Plant.unexpect_reaches hq) ?_))
  exact fun _ => rfl

theorem Snapshot.roll_fresh {s : Snapshot} {core : Nat} {st : RollState} {loc : Loc} {c : Claim} {b : Bool} {p : Plant}
    (fresh : p.holderOf s.num = none) : ∀ n, (s.roll core st loc c b).num = some n → p.holderOf n = none := by
  intro n hn
  have hn : (if s.num = 0 then none else some s.num) = some n := hn
  split at hn
  · cases hn
  · cases hn; exact fresh

theorem State.noticeNew_leads {s₀ s : State} (h : State.Leads s₀ s) {pl : Place} {sn : Snapshot}
    (fresh : s.plant.holderOf sn.num = none) : State.Leads s₀ (s.noticeNew pl sn) := by
  unfold State.noticeNew
  have made : ∀ {k : Handle} {p : Plant} {st : RollState} {loc : Loc},
      s.plant.createRoll (sn.roll s.plant.core st loc .none false) = some (k, p) → Plant.Reaches s₀.plant p :=
    fun e => h.plant.trans (.create e (Snapshot.roll_fresh fresh))
  dsimp only
  split
  · split
    · exact ⟨h.plant.trans (Plant.identify_reaches (.refl _) fresh), h.2⟩
    · exact State.event_leads h
  · split
    · next e => exact State.recordAt_leads (State.withPlant_leads h (made e))
    · exact State.event_leads h
  · split
    · split
      · split
        · next e => exact State.withPlant_leads h (Plant.modStop_reaches (made e))
        · exact State.event_leads h
      · exact State.event_leads h
    · exact State.event_leads h
    · exact State.event_leads h
  · exact State.event_leads h

theorem State.noticeHeld_leads {s₀ s : State} (h : State.Leads s₀ s) {pl_ : Place} {sn_ : Snapshot} {x_ : Handle} :
    State.Leads s₀ (s.noticeHeld pl_ sn_ x_) := by
  unfold State.noticeHeld
  repeat' first
    | ((try lift_lets); intro q; first | (refine (fun (hq : State.Leads s₀ q) => ?_) ?_; rotate_left; subst q; rotate_right; clear_value q) | (refine (fun (hq : Plant.Reaches s₀.plant q) => ?_) ?_; rotate_left; subst q; rotate_right; clear_value q) | clear_value q)
    | with_reducible assumption | with_reducible apply State.modPlant_leads
    | with_reducible apply Plant.applyNotice_reaches | with_reducible apply State.merge_leads
    | with_reducible apply State.event_leads | with_reducible apply Plant.event_reaches
    | with_reducible apply Plant.unexpect_reaches | with_reducible apply State.recordAt_leads
    | with_reducible apply State.Leads.plant | split | intro _ _ | (intro _; rfl) | (intro _; split <;> rfl)
    | (intro _; dsimp only; split <;> rfl) | dsimp only

theorem State.takeNotice_leads {s₀ s : State} (h : State.Leads s₀ s) {f : Frame} : State.Leads s₀ (s.takeNotice f) := by
  unfold State.takeNotice
  dsimp only
  split
  · exact State.event_leads h
  · split
    · next e => exact State.noticeNew_leads h e
    · exact State.noticeHeld_leads h

end Sys2Proof.Machine
end

