-- ==== Sys2Proof/Laws/ReachBusPort.lean ====
section
/-! SUPPORT. What the operations of Machine/BusPort.lean can do to the plant. -/
namespace Sys2Proof.Machine

theorem State.ignoreFrame_leads {s₀ s : State} (h : State.Leads s₀ s) : State.Leads s₀ s.ignoreFrame := by
  refine State.modPlant_leads h fun q hq => hq.trans (.bus q fun k => ?_)
  exact { k with counters := ⟨k.counters.1, k.counters.2.1, k.counters.2.2.1, satAdd_le _ _ _, k.counters.2.2.2.2⟩ }

theorem State.popFrame_leads {s₀ s : State} (h : State.Leads s₀ s) : State.Leads s₀ s.popFrame := by
  refine State.modPlant_leads h fun q hq => hq.trans (.bus q fun k => ?_)
  exact { k with rx := Nat.le_trans (by simp) k.rx }

theorem State.takeHead_leads {s₀ s : State} (h : State.Leads s₀ s) {row : FrameRow} {act : Frame → State → State}
    (ha : ∀ f t, State.Leads s₀ t → State.Leads s₀ (act f t)) : State.Leads s₀ (s.takeHead row act) := by
  unfold State.takeHead
  split
  · exact h
  · split
    · split
      · exact ha _ _ (State.popFrame_leads h)
      · exact State.ignoreFrame_leads (State.popFrame_leads h)
    · exact h

end Sys2Proof.Machine
end

