-- ==== Sys2Proof/Laws/ReachStatus.lean ====
section
/-! SUPPORT. What the operations of Machine/Status.lean can do to the plant. -/
namespace Sys2Proof.Machine

theorem State.takeStatusRequest_leads {s₀ s : State} (h : State.Leads s₀ s) {f_ : Frame} :
    State.Leads s₀ (s.takeStatusRequest f_) := by
  unfold State.takeStatusRequest
  repeat' first
    | ((try lift_lets); intro q; first | (refine (fun (hq : State.Leads s₀ q) => ?_) ?_; rotate_left; subst q; rotate_right; clear_value q) | (refine (fun (hq : Plant.Reaches s₀.plant q) => ?_) ?_; rotate_left; subst q; rotate_right; clear_value q) | clear_value q)
    | with_reducible assumption | with_reducible apply State.modPlant_leads | with_reducible apply Plant.send_reaches
    | with_reducible apply State.Leads.plant | split | intro _ _ | (intro _; rfl) | (intro _; split <;> rfl)
    | (intro _; dsimp only; split <;> rfl) | dsimp only

end Sys2Proof.Machine
end

