-- ==== Sys2Proof/Laws/ReachSurvey.lean ====
section
/-! SUPPORT. What the operations of Machine/Survey.lean can do to the plant. -/
namespace Sys2Proof.Machine

theorem Plant.surveyStop_reaches {p₀ p : Plant} (h : Plant.Reaches p₀ p) {c_ : StopCfg} :
    Plant.Reaches p₀ (p.surveyStop c_) := by
  unfold Plant.surveyStop
  repeat' first
    | with_reducible assumption | with_reducible apply Plant.placeAt_reaches
    | (with_reducible refine Plant.unknown_reaches (by assumption) rfl ?_)
    | exact hq.same rfl rfl rfl rfl rfl rfl rfl | exact h.same rfl rfl rfl rfl rfl rfl rfl | split | (intro _; rfl)
    | (intro _; split <;> rfl) | (intro _; dsimp only; split <;> rfl) | dsimp only

theorem State.surveyArm_leads {s₀ s : State} (h : State.Leads s₀ s) {n_ : Nat} {m_ : Arm} :
    State.Leads s₀ (s.surveyArm n_ m_) := by
  unfold State.surveyArm
  repeat' first
    | with_reducible assumption | with_reducible apply Plant.modRoll_reaches
    | with_reducible apply State.modArm_leads | with_reducible apply Plant.modArm_reaches
    | with_reducible apply State.modStand_leads | with_reducible apply Plant.modStand_reaches
    | with_reducible apply State.resetFolder_leads | with_reducible apply Plant.mountArm_reaches
    | (with_reducible refine Plant.unknown_reaches (by assumption) rfl ?_) | with_reducible apply State.Leads.plant
    | split | (intro _; rfl) | (intro _; split <;> rfl) | (intro _; dsimp only; split <;> rfl)
    | with_reducible refine State.withPlant_leads ‹State.Leads _ _› ?_ | dsimp only

theorem State.surveyRolls_leads {s₀ s : State} (h : State.Leads s₀ s) :
    State.Leads s₀ (s.surveyRolls) := by
  unfold State.surveyRolls
  repeat' first
    | with_reducible assumption | with_reducible apply State.surveyArm_leads
    | with_reducible apply State.modPlant_leads | with_reducible apply Plant.surveyStop_reaches
    | with_reducible apply forEach_leads | with_reducible apply forEach_reaches
    | with_reducible apply State.Leads.plant | split | intro _ _ _ | intro _ _ | (intro _; rfl)
    | (intro _; split <;> rfl) | (intro _; dsimp only; split <;> rfl) | dsimp only

theorem Plant.surveyAtStop_reaches {p₀ p : Plant} (h : Plant.Reaches p₀ p) {c_ : Cart} {x_ : Nat} {manual_ : Bool} :
    Plant.Reaches p₀ (p.surveyAtStop c_ x_ manual_) := by
  unfold Plant.surveyAtStop
  repeat' first
    | ((try lift_lets); intro q; first | (refine (fun (hq : Plant.Reaches p₀ q) => ?_) ?_; rotate_left; subst q; rotate_right; clear_value q) | clear_value q)
    | with_reducible assumption | with_reducible apply Plant.modCart_reaches
    | with_reducible apply Plant.enterFault_reaches | with_reducible apply Plant.standAt_reaches
    | with_reducible apply State.idle_leads | exact hq.same rfl rfl rfl rfl rfl rfl rfl
    | exact h.same rfl rfl rfl rfl rfl rfl rfl | split | (intro _; rfl) | (intro _; split <;> rfl)
    | (intro _; dsimp only; split <;> rfl) | dsimp only

theorem Plant.surveyInSection_reaches {p₀ p : Plant} (h : Plant.Reaches p₀ p) {c_ : Cart} {n_ : Nat} {manual_ : Bool} :
    Plant.Reaches p₀ (p.surveyInSection c_ n_ manual_) := by
  unfold Plant.surveyInSection
  repeat' first
    | ((try lift_lets); intro q; first | (refine (fun (hq : Plant.Reaches p₀ q) => ?_) ?_; rotate_left; subst q; rotate_right; clear_value q) | clear_value q)
    | with_reducible assumption | with_reducible apply Plant.modCart_reaches
    | with_reducible apply Plant.modSection_reaches | with_reducible apply Plant.giveParkLeg_reaches
    | with_reducible apply Plant.enterFault_reaches | exact hq.same rfl rfl rfl rfl rfl rfl rfl
    | exact h.same rfl rfl rfl rfl rfl rfl rfl | split | (intro _; rfl) | (intro _; split <;> rfl)
    | (intro _; dsimp only; split <;> rfl) | dsimp only

theorem Plant.surveyCart_reaches {p₀ p : Plant} (h : Plant.Reaches p₀ p) {c_ : Cart} :
    Plant.Reaches p₀ (p.surveyCart c_) := by
  unfold Plant.surveyCart
  repeat' first
    | with_reducible assumption | with_reducible apply Plant.enterFault_reaches
    | with_reducible apply Plant.modCart_reaches
    | with_reducible apply Plant.surveyAtStop_reaches | with_reducible apply Plant.surveyInSection_reaches
    | exact hq.same rfl rfl rfl rfl rfl rfl rfl | exact h.same rfl rfl rfl rfl rfl rfl rfl | split | (intro _; rfl)
    | (intro _; split <;> rfl) | (intro _; dsimp only; split <;> rfl) | dsimp only

theorem Plant.surveyLoad_reaches {p₀ p : Plant} (h : Plant.Reaches p₀ p) {c_ : Cart} :
    Plant.Reaches p₀ (p.surveyLoad c_) := by
  unfold Plant.surveyLoad
  repeat' first
    | with_reducible assumption | with_reducible apply Plant.modCart_reaches
    | (with_reducible refine Plant.unknown_reaches (by assumption) rfl ?_)
    | exact hq.same rfl rfl rfl rfl rfl rfl rfl | exact h.same rfl rfl rfl rfl rfl rfl rfl | split | (intro _; rfl)
    | (intro _; split <;> rfl) | (intro _; dsimp only; split <;> rfl) | dsimp only

theorem Plant.surveySection_reaches {p₀ p : Plant} (h : Plant.Reaches p₀ p) {n_ : Nat} :
    Plant.Reaches p₀ (p.surveySection n_) := by
  unfold Plant.surveySection
  repeat' first
    | ((try lift_lets); intro q; first | (refine (fun (hq : Plant.Reaches p₀ q) => ?_) ?_; rotate_left; subst q; rotate_right; clear_value q) | clear_value q)
    | with_reducible assumption | with_reducible apply Plant.blockSection_reaches
    | exact hq.same rfl rfl rfl rfl rfl rfl rfl | exact h.same rfl rfl rfl rfl rfl rfl rfl | split | (intro _; rfl)
    | (intro _; split <;> rfl) | (intro _; dsimp only; split <;> rfl) | dsimp only

theorem Plant.surveyTrack_reaches {p₀ p : Plant} (h : Plant.Reaches p₀ p) :
    Plant.Reaches p₀ (p.surveyTrack) := by
  unfold Plant.surveyTrack
  repeat' first
    | ((try lift_lets); intro q; first | (refine (fun (hq : Plant.Reaches p₀ q) => ?_) ?_; rotate_left; subst q; rotate_right; clear_value q) | clear_value q)
    | with_reducible assumption | with_reducible apply Plant.surveyCart_reaches
    | with_reducible apply Plant.surveyLoad_reaches | with_reducible apply Plant.surveySection_reaches
    | with_reducible apply forEach_reaches | split | intro _ _ _ | (intro _; rfl) | (intro _; split <;> rfl)
    | (intro _; dsimp only; split <;> rfl) | dsimp only

theorem Plant.startStows_reaches {p₀ p : Plant} (h : Plant.Reaches p₀ p) :
    Plant.Reaches p₀ (p.startStows) := by
  unfold Plant.startStows
  repeat' first
    | ((try lift_lets); intro q; first | (refine (fun (hq : Plant.Reaches p₀ q) => ?_) ?_; rotate_left; subst q; rotate_right; clear_value q) | clear_value q)
    | with_reducible assumption | with_reducible apply Plant.autoStow_reaches
    | with_reducible apply Plant.onCartOrPend_reaches | with_reducible apply forEach_reaches | split | intro _ _ _
    | (intro _; rfl) | (intro _; split <;> rfl) | (intro _; dsimp only; split <;> rfl) | dsimp only

/-- The end of the survey leads on from the node already in RUN. -/
theorem State.endSurvey_leads {s₀ s : State} (due : s.plant.surveyDone = true) (h : State.Leads s₀ (s.setNode .run)) :
    State.Leads s₀ s.endSurvey := by
  unfold State.endSurvey
  rw [if_pos due]
  refine State.modPlant_leads (State.surveyRolls_leads (State.event_leads h)) fun q hq => ?_
  refine Plant.settle_reaches (Plant.startStows_reaches (forEach_reaches (Plant.surveyTrack_reaches hq) ?_))
  exact fun _ _ h => Plant.trackLost_reaches h

theorem State.endSurvey_idle {s : State} (not : s.plant.surveyDone = false) : s.endSurvey = s := by
  unfold State.endSurvey
  rw [if_neg (by simp [not])]

end Sys2Proof.Machine
end

