-- ==== Sys2Proof/Laws/ReachField.lean ====
section
/-! SUPPORT. What the operations of Machine/Field.lean can do to the plant. -/
namespace Sys2Proof.Machine

theorem State.settle_leads {s₀ s : State} (h : State.Leads s₀ s) :
    State.Leads s₀ (s.settle) := by
  unfold State.settle
  repeat' first
    | with_reducible assumption | with_reducible apply State.modPlant_leads
    | with_reducible apply Plant.settle_reaches | with_reducible apply State.Leads.plant | split | intro _ _
    | (intro _; rfl) | (intro _; split <;> rfl) | (intro _; dsimp only; split <;> rfl) | dsimp only

theorem State.onLine_leads {s₀ s : State} (h : State.Leads s₀ s) {act : State → State}
    (ha : ∀ t, State.Leads s₀ t → State.Leads s₀ (act t)) : State.Leads s₀ (s.onLine act) := by
  unfold State.onLine
  split
  · exact ha _ h
  · exact h

theorem State.deliver_leads {s₀ s : State} (h : State.Leads s₀ s) {pt_ : FieldPoint} {v_ : PointInput} :
    State.Leads s₀ (s.deliver pt_ v_) := by
  unfold State.deliver
  repeat' first
    | with_reducible assumption | with_reducible apply State.modPlant_leads
    | with_reducible apply Plant.occupancyChanged_reaches | with_reducible apply Plant.sectionRead_reaches
    | with_reducible apply State.stopRead_leads | with_reducible apply Plant.stopGone_reaches
    | with_reducible apply Plant.sensorChanged_reaches | with_reducible apply Plant.prepConfirm_reaches
    | with_reducible apply Plant.prepReject_reaches | with_reducible apply State.onLine_leads
    | with_reducible apply State.readyConfirm_leads | with_reducible apply State.spliceNow_leads
    | with_reducible apply State.armLoadedChanged_leads | with_reducible apply State.webPresentChanged_leads
    | with_reducible apply State.Leads.plant | split | intro _ _ | (intro _; rfl) | (intro _; split <;> rfl)
    | (intro _; dsimp only; split <;> rfl) | dsimp only

theorem Plant.forgetRead_reaches {p₀ p : Plant} (h : Plant.Reaches p₀ p) {pos_ : Pos} :
    Plant.Reaches p₀ (p.forgetRead pos_) := h.same rfl rfl rfl rfl rfl rfl rfl

theorem Plant.noteTag_reaches {p₀ p : Plant} (h : Plant.Reaches p₀ p) {pos_ : Pos} {c_ : Nat} {m_ l_ : Bool} :
    Plant.Reaches p₀ (p.noteTag pos_ c_ m_ l_) := Plant.modCart_reaches (Plant.forgetRead_reaches h)

theorem Plant.noteRead_reaches {p₀ p : Plant} (h : Plant.Reaches p₀ p) {pt_ : FieldPoint} {v_ : PointInput} :
    Plant.Reaches p₀ (p.noteRead pt_ v_) := by
  unfold Plant.noteRead
  repeat' first
    | with_reducible assumption | with_reducible apply Plant.noteTag_reaches
    | with_reducible apply Plant.forgetRead_reaches | split

theorem State.takePoint_leads {s₀ s : State} (h : State.Leads s₀ s) {m_ : Nat} {pv_ : Nat × PointInput} :
    State.Leads s₀ (State.takePoint m_ s pv_) := by
  unfold State.takePoint
  repeat' first
    | ((try lift_lets); intro q; first | (refine (fun (hq : State.Leads s₀ q) => ?_) ?_; rotate_left; subst q; rotate_right; clear_value q) | (refine (fun (hq : Plant.Reaches s₀.plant q) => ?_) ?_; rotate_left; subst q; rotate_right; clear_value q) | clear_value q)
    | with_reducible assumption | with_reducible apply State.modPlant_leads
    | with_reducible apply Plant.setInput_reaches | with_reducible apply State.deliver_leads
    | with_reducible apply State.settle_leads | with_reducible apply Plant.settle_reaches
    | with_reducible apply Plant.noteRead_reaches | with_reducible apply State.Leads.plant | split | intro _ _
    | (intro _; rfl) | (intro _; split <;> rfl) | (intro _; dsimp only; split <;> rfl) | dsimp only

theorem State.standBack_leads {s₀ s : State} (h : State.Leads s₀ s) {m_ : Nat} {held_ : ModuleRec} {pt_ : Nat} :
    State.Leads s₀ (s.standBack m_ held_ pt_) := by
  unfold State.standBack
  repeat' first
    | ((try lift_lets); intro q; first | (refine (fun (hq : State.Leads s₀ q) => ?_) ?_; rotate_left; subst q; rotate_right; clear_value q) | (refine (fun (hq : Plant.Reaches s₀.plant q) => ?_) ?_; rotate_left; subst q; rotate_right; clear_value q) | clear_value q)
    | with_reducible assumption | with_reducible apply State.deliver_leads | with_reducible apply State.Leads.plant
    | split | (intro _; rfl) | (intro _; split <;> rfl) | (intro _; dsimp only; split <;> rfl) | dsimp only

theorem State.armBack_leads {s₀ s : State} (h : State.Leads s₀ s) {n : Nat} {m : Arm} :
    State.Leads s₀ (s.armBack n m) := by
  unfold State.armBack
  split
  · split
    · exact h
    split
    · split
      · next made =>
        exact State.recordOnArm_leads (State.withPlant_leads h (Plant.unknown_reaches made rfl h.plant))
      · exact State.event_leads h
    split
    · exact State.armInput_leads h
    · exact h
  · exact h

theorem State.armsBack_leads {s₀ s : State} (h : State.Leads s₀ s) {m : Nat} : State.Leads s₀ (s.armsBack m) := by
  unfold State.armsBack
  refine forEach_leads h fun q c hq => State.onLine_leads hq ?_
  exact fun r hr => State.armBack_leads (State.armBack_leads hr)

theorem Plant.nextPoll_reaches {p₀ p : Plant} (h : Plant.Reaches p₀ p) : Plant.Reaches p₀ p.nextPoll :=
  h.same rfl rfl rfl rfl rfl rfl rfl

theorem State.surveyAgain_leads {s₀ s : State} (h : State.Leads s₀ s) {r_ : ModuleRec} {inputs_ : List PointInput} :
    State.Leads s₀ (s.surveyAgain r_ inputs_) := by
  unfold State.surveyAgain
  repeat' first
    | ((try lift_lets); intro q; first | (refine (fun (hq : State.Leads s₀ q) => ?_) ?_; rotate_left; subst q; rotate_right; clear_value q) | (refine (fun (hq : Plant.Reaches s₀.plant q) => ?_) ?_; rotate_left; subst q; rotate_right; clear_value q) | clear_value q)
    | with_reducible assumption | with_reducible apply State.modPlant_leads
    | with_reducible apply Plant.modModule_reaches | with_reducible apply Plant.trackBack_reaches
    | with_reducible apply State.standBack_leads | with_reducible apply State.armsBack_leads | with_reducible apply State.settle_leads
    | with_reducible apply Plant.settle_reaches | with_reducible apply forEach_leads
    | with_reducible apply forEach_reaches | with_reducible apply State.Leads.plant | split | intro _ _ _ | intro _ _
    | (intro _; rfl) | (intro _; split <;> rfl) | (intro _; dsimp only; split <;> rfl) | dsimp only

theorem State.fieldAnswer_leads {s₀ s : State} (h : State.Leads s₀ s) {m_ : Nat} {inputs_ : List PointInput} :
    State.Leads s₀ (s.fieldAnswer m_ inputs_) := by
  unfold State.fieldAnswer
  repeat' first
    | ((try lift_lets); intro q; first | (refine (fun (hq : State.Leads s₀ q) => ?_) ?_; rotate_left; subst q; rotate_right; clear_value q) | (refine (fun (hq : Plant.Reaches s₀.plant q) => ?_) ?_; rotate_left; subst q; rotate_right; clear_value q) | clear_value q)
    | with_reducible assumption | with_reducible apply State.surveyAgain_leads | with_reducible apply Plant.nextPoll_reaches
    | with_reducible apply State.modPlant_leads | with_reducible apply Plant.modModule_reaches
    | with_reducible apply State.takePoint_leads | with_reducible apply forEach_leads
    | with_reducible apply forEach_reaches | with_reducible apply State.Leads.plant | split | intro _ _ _ | intro _ _
    | (intro _; rfl) | (intro _; split <;> rfl) | (intro _; dsimp only; split <;> rfl) | dsimp only

theorem State.missedScan_leads {s₀ s : State} (h : State.Leads s₀ s) {m_ : Nat} :
    State.Leads s₀ (s.missedScan m_) := by
  unfold State.missedScan
  repeat' first
    | with_reducible assumption | with_reducible apply State.modPlant_leads
    | with_reducible apply Plant.modModule_reaches | with_reducible apply Plant.loseModule_reaches
    | with_reducible apply Plant.nextPoll_reaches
    | with_reducible apply State.Leads.plant | split | intro _ _ | (intro _; rfl) | (intro _; split <;> rfl)
    | (intro _; dsimp only; split <;> rfl) | dsimp only

theorem State.fieldEvent_leads {s₀ s : State} (h : State.Leads s₀ s) {k_ : FieldPoint} {v_ : PointInput} :
    State.Leads s₀ (s.fieldEvent k_ v_) := by
  unfold State.fieldEvent
  repeat' first
    | ((try lift_lets); intro q; first | (refine (fun (hq : State.Leads s₀ q) => ?_) ?_; rotate_left; subst q; rotate_right; clear_value q) | (refine (fun (hq : Plant.Reaches s₀.plant q) => ?_) ?_; rotate_left; subst q; rotate_right; clear_value q) | clear_value q)
    | with_reducible assumption | with_reducible apply State.modPlant_leads
    | with_reducible apply Plant.setInput_reaches | with_reducible apply State.deliver_leads
    | with_reducible apply State.settle_leads | with_reducible apply Plant.settle_reaches
    | with_reducible apply Plant.noteRead_reaches | with_reducible apply State.Leads.plant | split | intro _ _
    | (intro _; rfl) | (intro _; split <;> rfl) | (intro _; dsimp only; split <;> rfl) | dsimp only

theorem State.button_leads {s₀ s : State} (h : State.Leads s₀ s) {k_ : FieldPoint} :
    State.Leads s₀ (s.button k_) := by
  unfold State.button
  repeat' first
    | with_reducible assumption | with_reducible apply State.deliver_leads | with_reducible apply State.settle_leads
    | with_reducible apply Plant.settle_reaches | with_reducible apply State.Leads.plant | split | (intro _; rfl)
    | (intro _; split <;> rfl) | (intro _; dsimp only; split <;> rfl) | dsimp only

end Sys2Proof.Machine
end

