-- ==== Sys2Proof/Laws/Quiet.lean ====
section
/-! SUPPORT. The operations that leave the edition record and the waste gate alone (R148, R169). -/
namespace Sys2Proof.Machine
-- One theorem at a time: side by side, the proofs take a thread's stack each.
set_option Elab.async false

/-- `t` has the edition record and the waste gate of `s`. -/
def State.Quiet (s t : State) : Prop := t.press.edition = s.press.edition ∧ t.press.waste.gate = s.press.waste.gate

section
variable {s₀ s : State}

theorem State.Quiet.refl (s : State) : State.Quiet s s := ⟨rfl, rfl⟩
theorem State.modPlant_quiet (h : State.Quiet s₀ s) {f} : State.Quiet s₀ (s.modPlant f) := h
theorem State.withPlant_quiet (h : State.Quiet s₀ s) {p : Plant} : State.Quiet s₀ { s with plant := p } := h
theorem State.modStand_quiet (h : State.Quiet s₀ s) {n f} : State.Quiet s₀ (s.modStand n f) := h
theorem State.modArm_quiet (h : State.Quiet s₀ s) {n m f} : State.Quiet s₀ (s.modArm n m f) := h
theorem State.event_quiet (h : State.Quiet s₀ s) {e} : State.Quiet s₀ (s.event e) := h
theorem State.modWeb_quiet (h : State.Quiet s₀ s) {n f} : State.Quiet s₀ (s.modWeb n f) := h
theorem State.modWasteStand_quiet (h : State.Quiet s₀ s) {n f} : State.Quiet s₀ (s.modWasteStand n f) := h
theorem State.discardTrims_quiet (h : State.Quiet s₀ s) : State.Quiet s₀ s.discardTrims := h
theorem State.modWaste_quiet (h : State.Quiet s₀ s) {f : WasteUnit → WasteUnit} (hf : ∀ w, (f w).gate = w.gate) :
    State.Quiet s₀ (s.modWaste f) := ⟨h.1, (hf _).trans h.2⟩
theorem State.modPress_quiet (h : State.Quiet s₀ s) {f : Press → Press} (he : ∀ p, (f p).edition = p.edition)
    (hg : ∀ p, (f p).waste.gate = p.waste.gate) : State.Quiet s₀ (s.modPress f) :=
  ⟨(he _).trans h.1, (hg _).trans h.2⟩

theorem forEach_quiet {α : Type} {l : List α} {f : State → α → State} (h : State.Quiet s₀ s)
    (hf : ∀ q x, State.Quiet s₀ q → State.Quiet s₀ (f q x)) : State.Quiet s₀ (forEach l f s) := by
  unfold forEach
  induction l generalizing s with
  | nil => exact h
  | cons x xs ih => exact ih (hf _ _ h)

end

/-! ### Every operation of the node that is quiet, in the order of the files -/

variable {s₀ s : State}

theorem State.endTrimOf_quiet (h : State.Quiet s₀ s) {n_ : Nat} : State.Quiet s₀ (s.endTrimOf n_) := by
  unfold State.endTrimOf
  split
  · next w c _ _ =>
    split
    · obtain ⟨w', cause⟩ := w.endTrim c s.press.edition.cutOff
      cases cause with
      | none => exact State.modWeb_quiet h
      | some why => exact State.event_quiet (State.modWeb_quiet h)
    · exact h
  · exact h

theorem State.bringUp_quiet (h : State.Quiet s₀ s) {n_ : Nat} :
    State.Quiet s₀ (s.bringUp n_) := by
  unfold State.bringUp
  repeat' first
    | with_reducible assumption | with_reducible apply State.modWasteStand_quiet | split | dsimp only

theorem State.bringAll_quiet (h : State.Quiet s₀ s) :
    State.Quiet s₀ (s.bringAll) := by
  unfold State.bringAll
  repeat' first
    | with_reducible assumption | with_reducible apply State.bringUp_quiet | with_reducible apply forEach_quiet
    | split | intro _ _ _ | dsimp only

theorem State.resolveOldest_quiet (h : State.Quiet s₀ s) {n_ : Nat} :
    State.Quiet s₀ (s.resolveOldest n_) := by
  unfold State.resolveOldest
  repeat' first
    | with_reducible assumption | with_reducible apply State.modWasteStand_quiet
    | with_reducible apply State.event_quiet | split | dsimp only

theorem State.pushMark_quiet (h : State.Quiet s₀ s) {n_ : Nat} {old_ : RollRef} {new_ : RollRef} :
    State.Quiet s₀ (s.pushMark n_ old_ new_) := by
  unfold State.pushMark
  repeat' first
    | with_reducible assumption | with_reducible apply State.bringUp_quiet
    | with_reducible apply State.resolveOldest_quiet | with_reducible apply State.modWasteStand_quiet | split
    | dsimp only

theorem State.resetFolder_quiet (h : State.Quiet s₀ s) {n_ : Nat} {r_ : RollRef} :
    State.Quiet s₀ (s.resetFolder n_ r_) := by
  unfold State.resetFolder
  repeat' first
    | with_reducible assumption | with_reducible apply State.modWasteStand_quiet | split | dsimp only

theorem State.latchBreak_quiet (h : State.Quiet s₀ s) :
    State.Quiet s₀ (s.latchBreak) := by
  unfold State.latchBreak
  repeat' first
    | with_reducible assumption | with_reducible apply State.modWaste_quiet | split | (intro _; rfl) | dsimp only

theorem State.latchFailure_quiet (h : State.Quiet s₀ s) {n_ : Nat} :
    State.Quiet s₀ (s.latchFailure n_) := by
  unfold State.latchFailure
  repeat' first
    | with_reducible assumption | with_reducible apply State.latchBreak_quiet | split | dsimp only

theorem State.attributeOn_quiet (h : State.Quiet s₀ s) {waste_ : Bool} {n_ : Nat} :
    State.Quiet s₀ (State.attributeOn waste_ s n_) := by
  unfold State.attributeOn
  repeat' first
    | ((try lift_lets); intro q; first | (refine (fun (hq : State.Quiet s₀ q) => ?_) ?_; rotate_left; subst q; rotate_right; clear_value q) | clear_value q)
    | with_reducible assumption | with_reducible apply State.modWaste_quiet
    | with_reducible apply State.modPlant_quiet | split | (intro _; rfl) | dsimp only

theorem State.attribute_quiet (h : State.Quiet s₀ s) {waste_ : Bool} :
    State.Quiet s₀ (s.attribute waste_) := by
  unfold State.attribute
  repeat' first
    | with_reducible assumption | with_reducible apply State.attributeOn_quiet | with_reducible apply forEach_quiet
    | split | intro _ _ _ | dsimp only

theorem State.takeDivert_quiet (h : State.Quiet s₀ s) {n_ : Nat} :
    State.Quiet s₀ (s.takeDivert n_) := by
  unfold State.takeDivert
  repeat' first
    | with_reducible assumption | with_reducible apply State.event_quiet | with_reducible apply State.modWaste_quiet
    | split | (intro _; rfl) | dsimp only

theorem State.readyConfirm_quiet (h : State.Quiet s₀ s) {n_ : Nat} {m_ : Arm} :
    State.Quiet s₀ (s.readyConfirm n_ m_) := by
  unfold State.readyConfirm
  repeat' first
    | with_reducible assumption | with_reducible apply State.modPlant_quiet
    | with_reducible apply State.modStand_quiet | with_reducible apply State.resetFolder_quiet | split | dsimp only

theorem State.abort_quiet (h : State.Quiet s₀ s) {n_ : Nat} {cause_ : Nat} :
    State.Quiet s₀ (s.abort n_ cause_) := by
  unfold State.abort
  repeat' first
    | ((try lift_lets); intro q; first | (refine (fun (hq : State.Quiet s₀ q) => ?_) ?_; rotate_left; subst q; rotate_right; clear_value q) | clear_value q)
    | with_reducible assumption | with_reducible apply State.modStand_quiet | with_reducible apply State.modArm_quiet
    | with_reducible apply State.event_quiet | split | dsimp only

theorem State.failVerify_quiet (h : State.Quiet s₀ s) {n_ : Nat} :
    State.Quiet s₀ (s.failVerify n_) := by
  unfold State.failVerify
  repeat' first
    | with_reducible assumption | with_reducible apply State.modStand_quiet | with_reducible apply State.event_quiet
    | with_reducible apply State.latchFailure_quiet | split | dsimp only

theorem State.webBreak_quiet (h : State.Quiet s₀ s) {n_ : Nat} :
    State.Quiet s₀ (s.webBreak n_) := by
  unfold State.webBreak
  repeat' first
    | with_reducible assumption | with_reducible apply State.modStand_quiet | with_reducible apply State.event_quiet
    | with_reducible apply State.latchBreak_quiet | with_reducible apply State.abort_quiet | split | dsimp only

theorem State.webPresentChanged_quiet (h : State.Quiet s₀ s) {n_ : Nat} {on_ : Bool} :
    State.Quiet s₀ (s.webPresentChanged n_ on_) := by
  unfold State.webPresentChanged
  repeat' first
    | with_reducible assumption | with_reducible apply State.modStand_quiet
    | with_reducible apply State.failVerify_quiet | with_reducible apply State.webBreak_quiet | split | dsimp only

theorem State.swapTo_quiet (h : State.Quiet s₀ s) {n_ : Nat} {m_ : Arm} :
    State.Quiet s₀ (s.swapTo n_ m_) := by
  unfold State.swapTo
  repeat' first
    | ((try lift_lets); intro q; first | (refine (fun (hq : State.Quiet s₀ q) => ?_) ?_; rotate_left; subst q; rotate_right; clear_value q) | clear_value q)
    | with_reducible assumption | with_reducible apply State.modPlant_quiet
    | with_reducible apply State.modStand_quiet | with_reducible apply State.failVerify_quiet | split | dsimp only

theorem State.swapToNothing_quiet (h : State.Quiet s₀ s) {n_ : Nat} :
    State.Quiet s₀ (s.swapToNothing n_) := by
  unfold State.swapToNothing
  repeat' first
    | with_reducible assumption | with_reducible apply State.modPlant_quiet
    | with_reducible apply State.modStand_quiet | with_reducible apply State.event_quiet
    | with_reducible apply State.latchFailure_quiet | split | dsimp only

theorem State.fireKnife_quiet (h : State.Quiet s₀ s) {n_ : Nat} :
    State.Quiet s₀ (s.fireKnife n_) := by
  unfold State.fireKnife
  repeat' first
    | ((try lift_lets); intro q; first | (refine (fun (hq : State.Quiet s₀ q) => ?_) ?_; rotate_left; subst q; rotate_right; clear_value q) | clear_value q)
    | with_reducible assumption | with_reducible apply State.modPlant_quiet
    | with_reducible apply State.modStand_quiet | with_reducible apply State.swapTo_quiet
    | with_reducible apply State.swapToNothing_quiet | split | dsimp only

theorem State.verifyDone_quiet (h : State.Quiet s₀ s) {n_ : Nat} :
    State.Quiet s₀ (s.verifyDone n_) := by
  unfold State.verifyDone
  repeat' first
    | with_reducible assumption | with_reducible apply State.modStand_quiet | with_reducible apply State.event_quiet
    | split | dsimp only

theorem State.enterAccel_quiet (h : State.Quiet s₀ s) {n_ : Nat} :
    State.Quiet s₀ (s.enterAccel n_) := by
  unfold State.enterAccel
  repeat' first
    | with_reducible assumption | with_reducible apply State.modArm_quiet | with_reducible apply State.modStand_quiet
    | split | dsimp only

theorem State.enterMatched_quiet (h : State.Quiet s₀ s) {n_ : Nat} :
    State.Quiet s₀ (s.enterMatched n_) := by
  unfold State.enterMatched
  repeat' first
    | with_reducible assumption | with_reducible apply State.modStand_quiet
    | with_reducible apply State.spliceNow_quiet | split | dsimp only

theorem State.schedulePaste_quiet (h : State.Quiet s₀ s) {n_ : Nat} {tRev_ : Nat} :
    State.Quiet s₀ (s.schedulePaste n_ tRev_) := by
  unfold State.schedulePaste
  repeat' first
    | ((try lift_lets); intro q; first | (refine (fun (hq : State.Quiet s₀ q) => ?_) ?_; rotate_left; subst q; rotate_right; clear_value q) | clear_value q)
    | with_reducible assumption | with_reducible apply State.abort_quiet | with_reducible apply State.modStand_quiet
    | split | dsimp only

theorem State.judged_quiet (h : State.Quiet s₀ s) {n_ : Nat} {tRev_ : Nat} {matched_ : Bool} :
    State.Quiet s₀ (s.judged n_ tRev_ matched_) := by
  unfold State.judged
  repeat' first
    | ((try lift_lets); intro q; first | (refine (fun (hq : ∀ t, State.Quiet s₀ t → State.Quiet s₀ (q t)) => ?_) ?_; rotate_left; subst q; rotate_right; clear_value q) | (refine (fun (hq : State.Quiet s₀ q) => ?_) ?_; rotate_left; subst q; rotate_right; clear_value q) | clear_value q)
    | with_reducible assumption | with_reducible apply hq | with_reducible apply State.modStand_quiet
    | with_reducible apply State.enterMatched_quiet | with_reducible apply State.schedulePaste_quiet | split
    | intro _ _ | dsimp only

theorem State.spinPulse_quiet (h : State.Quiet s₀ s) {n_ : Nat} {m_ : Arm} :
    State.Quiet s₀ (s.spinPulse n_ m_) := by
  unfold State.spinPulse
  repeat' first
    | ((try lift_lets); intro q; first | (refine (fun (hq : State.Quiet s₀ q) => ?_) ?_; rotate_left; subst q; rotate_right; clear_value q) | clear_value q)
    | with_reducible assumption | with_reducible apply State.modArm_quiet | with_reducible apply State.judged_quiet
    | split | dsimp only

theorem State.runPulse_quiet (h : State.Quiet s₀ s) {n_ : Nat} {m_ : Arm} :
    State.Quiet s₀ (s.runPulse n_ m_) := by
  unfold State.runPulse
  repeat' first
    | ((try lift_lets); intro q; first | (refine (fun (hq : State.Quiet s₀ q) => ?_) ?_; rotate_left; subst q; rotate_right; clear_value q) | clear_value q)
    | with_reducible assumption | with_reducible apply State.modArm_quiet | with_reducible apply State.event_quiet
    | split | dsimp only

theorem State.armPulse_quiet (h : State.Quiet s₀ s) {n_ : Nat} {m_ : Arm} :
    State.Quiet s₀ (s.armPulse n_ m_) := by
  unfold State.armPulse
  repeat' first
    | with_reducible assumption | with_reducible apply State.modArm_quiet | with_reducible apply State.runPulse_quiet
    | with_reducible apply State.spinPulse_quiet | split | dsimp only

theorem State.paste_quiet (h : State.Quiet s₀ s) {n_ : Nat} :
    State.Quiet s₀ (s.paste n_) := by
  unfold State.paste
  repeat' first
    | ((try lift_lets); intro q; first | (refine (fun (hq : State.Quiet s₀ q) => ?_) ?_; rotate_left; subst q; rotate_right; clear_value q) | clear_value q)
    | with_reducible assumption | with_reducible apply State.modPlant_quiet
    | with_reducible apply State.modStand_quiet | with_reducible apply State.pushMark_quiet
    | with_reducible apply State.modWeb_quiet | split | dsimp only

theorem State.spliceNow_quiet (h : State.Quiet s₀ s) {n_ : Nat} :
    State.Quiet s₀ (s.spliceNow n_) := by
  unfold State.spliceNow
  repeat' first
    | ((try lift_lets); intro q; first | (refine (fun (hq : ∀ t, State.Quiet s₀ t → State.Quiet s₀ (q t)) => ?_) ?_; rotate_left; subst q; rotate_right; clear_value q) | (refine (fun (hq : State.Quiet s₀ q) => ?_) ?_; rotate_left; subst q; rotate_right; clear_value q) | clear_value q)
    | with_reducible assumption | with_reducible apply hq | with_reducible apply State.modStand_quiet
    | with_reducible apply State.enterAccel_quiet | with_reducible apply State.event_quiet | split | intro _ _
    | dsimp only

theorem State.runArmLost_quiet (h : State.Quiet s₀ s) {n_ : Nat} {phase_ : Phase} :
    State.Quiet s₀ (s.runArmLost n_ phase_) := by
  unfold State.runArmLost
  repeat' first
    | ((try lift_lets); intro q; first | (refine (fun (hq : State.Quiet s₀ q) => ?_) ?_; rotate_left; subst q; rotate_right; clear_value q) | clear_value q)
    | with_reducible assumption | with_reducible apply State.modPlant_quiet
    | with_reducible apply State.modStand_quiet | with_reducible apply State.event_quiet
    | with_reducible apply State.latchFailure_quiet | with_reducible apply State.abort_quiet
    | with_reducible apply State.fireKnife_quiet | split | dsimp only

theorem State.spinArmLost_quiet (h : State.Quiet s₀ s) {n_ : Nat} {phase_ : Phase} :
    State.Quiet s₀ (s.spinArmLost n_ phase_) := by
  unfold State.spinArmLost
  repeat' first
    | with_reducible assumption | with_reducible apply State.modStand_quiet | with_reducible apply State.event_quiet
    | with_reducible apply State.fireKnife_quiet | split | dsimp only

theorem State.armRemoved_quiet (h : State.Quiet s₀ s) {n_ : Nat} {m_ : Arm} :
    State.Quiet s₀ (s.armRemoved n_ m_) := by
  unfold State.armRemoved
  repeat' first
    | ((try lift_lets); intro q; first | (refine (fun (hq : State.Quiet s₀ q) => ?_) ?_; rotate_left; subst q; rotate_right; clear_value q) | clear_value q)
    | with_reducible assumption | with_reducible apply State.modPlant_quiet
    | with_reducible apply State.runArmLost_quiet | with_reducible apply State.spinArmLost_quiet | split | dsimp only

theorem State.armInput_quiet (h : State.Quiet s₀ s) {n_ : Nat} {m_ : Arm} {on_ : Bool} :
    State.Quiet s₀ (s.armInput n_ m_ on_) := by
  unfold State.armInput
  repeat' first
    | with_reducible assumption | with_reducible apply State.modPlant_quiet
    | with_reducible apply State.armRemoved_quiet | split | dsimp only

theorem State.armLoadedChanged_quiet (h : State.Quiet s₀ s) {n_ : Nat} {m_ : Arm} {on_ : Bool} :
    State.Quiet s₀ (s.armLoadedChanged n_ m_ on_) := by
  unfold State.armLoadedChanged
  repeat' first
    | with_reducible assumption | with_reducible apply State.modPlant_quiet
    | with_reducible apply State.armInput_quiet | split | dsimp only

theorem State.standPressFall_quiet (h : State.Quiet s₀ s) {n_ : Nat} :
    State.Quiet s₀ (s.standPressFall n_) := by
  unfold State.standPressFall
  repeat' first
    | ((try lift_lets); intro q; first | (refine (fun (hq : State.Quiet s₀ q) => ?_) ?_; rotate_left; subst q; rotate_right; clear_value q) | clear_value q)
    | with_reducible assumption | with_reducible apply State.modStand_quiet | with_reducible apply State.abort_quiet
    | with_reducible apply State.fireKnife_quiet | split | dsimp only

theorem State.pressFall_quiet (h : State.Quiet s₀ s) :
    State.Quiet s₀ (s.pressFall) := by
  unfold State.pressFall
  repeat' first
    | with_reducible assumption | with_reducible apply State.standPressFall_quiet
    | with_reducible apply State.discardTrims_quiet | with_reducible apply State.modWaste_quiet
    | with_reducible apply State.modPlant_quiet | with_reducible apply forEach_quiet | split | intro _ _ _
    | (intro _; rfl) | dsimp only

theorem State.setPressRun_quiet (h : State.Quiet s₀ s) {on_ : Bool} :
    State.Quiet s₀ (s.setPressRun on_) := by
  unfold State.setPressRun
  repeat' first
    | with_reducible assumption | with_reducible apply State.modPlant_quiet | split | dsimp only

theorem State.losePulses_quiet (h : State.Quiet s₀ s) {n_ : Nat} {m_ : Arm} :
    State.Quiet s₀ (s.losePulses n_ m_) := by
  unfold State.losePulses
  repeat' first
    | ((try lift_lets); intro q; first | (refine (fun (hq : State.Quiet s₀ q) => ?_) ?_; rotate_left; subst q; rotate_right; clear_value q) | clear_value q)
    | with_reducible assumption | with_reducible apply State.modArm_quiet | with_reducible apply State.event_quiet
    | with_reducible apply State.pulseLost_quiet | split | dsimp only

theorem State.estimatorWindow_quiet (h : State.Quiet s₀ s) {n_ : Nat} {m_ : Arm} {advance_ : Nat} :
    State.Quiet s₀ (s.estimatorWindow n_ m_ advance_) := by
  unfold State.estimatorWindow
  repeat' first
    | with_reducible assumption | with_reducible apply State.modArm_quiet
    | with_reducible apply State.losePulses_quiet | split | dsimp only

theorem State.pulseLost_quiet (h : State.Quiet s₀ s) {n_ : Nat} :
    State.Quiet s₀ (s.pulseLost n_) := by
  unfold State.pulseLost
  repeat' first
    | with_reducible assumption | with_reducible apply State.losePulses_quiet | with_reducible apply State.modArm_quiet
    | split | dsimp only

theorem State.creditWindow_quiet (h : State.Quiet s₀ s) {n_ : Nat} {m_ : Arm} {advance_ : Nat} :
    State.Quiet s₀ (s.creditWindow n_ m_ advance_) := by
  unfold State.creditWindow
  repeat' first
    | with_reducible assumption | with_reducible apply State.modPlant_quiet | split | dsimp only

theorem State.forecast_quiet (h : State.Quiet s₀ s) {n_ : Nat} :
    State.Quiet s₀ (s.forecast n_) := by
  unfold State.forecast
  repeat' first
    | ((try lift_lets); intro q; first | (refine (fun (hq : State.Quiet s₀ q) => ?_) ?_; rotate_left; subst q; rotate_right; clear_value q) | clear_value q)
    | with_reducible assumption | with_reducible apply State.modStand_quiet | split | dsimp only

theorem State.measureWindow_quiet (h : State.Quiet s₀ s) {n_ : Nat} {advance_ : Nat} :
    State.Quiet s₀ (s.measureWindow n_ advance_) := by
  unfold State.measureWindow
  repeat' first
    | with_reducible assumption | with_reducible apply State.estimatorWindow_quiet
    | with_reducible apply State.creditWindow_quiet | with_reducible apply State.forecast_quiet | split | dsimp only

theorem State.dutyStep_quiet (h : State.Quiet s₀ s) {n_ : Nat} :
    State.Quiet s₀ (s.dutyStep n_) := by
  unfold State.dutyStep
  repeat' first
    | ((try lift_lets); intro q; first | (refine (fun (hq : State.Quiet s₀ q) => ?_) ?_; rotate_left; subst q; rotate_right; clear_value q) | clear_value q)
    | with_reducible assumption | with_reducible apply State.modArm_quiet | split | dsimp only

theorem State.runOutStep_quiet (h : State.Quiet s₀ s) {n_ : Nat} :
    State.Quiet s₀ (s.runOutStep n_) := by
  unfold State.runOutStep
  repeat' first
    | with_reducible assumption | with_reducible apply State.modStand_quiet | with_reducible apply State.event_quiet
    | split | dsimp only

theorem State.speedStep_quiet (h : State.Quiet s₀ s) {n_ : Nat} :
    State.Quiet s₀ (s.speedStep n_) := by
  unfold State.speedStep
  repeat' first
    | with_reducible assumption | with_reducible apply State.abort_quiet | split | dsimp only

theorem State.phaseStep_quiet (h : State.Quiet s₀ s) {n_ : Nat} :
    State.Quiet s₀ (s.phaseStep n_) := by
  unfold State.phaseStep
  repeat' first
    | with_reducible assumption | with_reducible apply State.spliceNow_quiet
    | with_reducible apply State.enterAccel_quiet | with_reducible apply State.modStand_quiet | split | dsimp only

theorem State.stoppedStep_quiet (h : State.Quiet s₀ s) {n_ : Nat} :
    State.Quiet s₀ (s.stoppedStep n_) := by
  unfold State.stoppedStep
  repeat' first
    | with_reducible assumption | with_reducible apply State.modPlant_quiet | split | dsimp only

theorem State.requestStep_quiet (h : State.Quiet s₀ s) {n_ : Nat} :
    State.Quiet s₀ (s.requestStep n_) := by
  unfold State.requestStep
  repeat' first
    | ((try lift_lets); intro q; first | (refine (fun (hq : State.Quiet s₀ q) => ?_) ?_; rotate_left; subst q; rotate_right; clear_value q) | clear_value q)
    | with_reducible assumption | with_reducible apply State.modStand_quiet
    | with_reducible apply State.modPlant_quiet | split
    | with_reducible refine State.withPlant_quiet ‹State.Quiet _ _› | dsimp only

theorem State.spliceWindow_quiet (h : State.Quiet s₀ s) {n_ : Nat} :
    State.Quiet s₀ (s.spliceWindow n_) := by
  unfold State.spliceWindow
  repeat' first
    | with_reducible assumption | with_reducible apply State.dutyStep_quiet
    | with_reducible apply State.runOutStep_quiet | with_reducible apply State.speedStep_quiet
    | with_reducible apply State.phaseStep_quiet | with_reducible apply State.stoppedStep_quiet
    | with_reducible apply State.requestStep_quiet | with_reducible apply State.modPlant_quiet | split | dsimp only

theorem State.standWindow_quiet (h : State.Quiet s₀ s) {n_ : Nat} :
    State.Quiet s₀ (s.standWindow n_) := by
  unfold State.standWindow
  repeat' first
    | ((try lift_lets); intro q; first | (refine (fun (hq : State.Quiet s₀ q) => ?_) ?_; rotate_left; subst q; rotate_right; clear_value q) | clear_value q)
    | with_reducible assumption | with_reducible apply State.modWeb_quiet
    | with_reducible apply State.measureWindow_quiet | with_reducible apply State.spliceWindow_quiet | split
    | dsimp only

theorem State.speedWindow_quiet (h : State.Quiet s₀ s) :
    State.Quiet s₀ (s.speedWindow) := by
  unfold State.speedWindow
  repeat' first
    | ((try lift_lets); intro q; first | (refine (fun (hq : State.Quiet s₀ q) => ?_) ?_; rotate_left; subst q; rotate_right; clear_value q) | clear_value q)
    | with_reducible assumption | with_reducible apply State.modPress_quiet
    | with_reducible apply State.standWindow_quiet | with_reducible apply State.bringAll_quiet
    | with_reducible apply State.modPlant_quiet | with_reducible apply State.settle_quiet
    | with_reducible apply forEach_quiet | split | intro _ _ _ | (intro _; rfl) | dsimp only

theorem State.recordFolder_quiet (h : State.Quiet s₀ s) {n_ : Nat} {h_ : Handle} :
    State.Quiet s₀ (s.recordFolder n_ h_) := by
  unfold State.recordFolder
  repeat' first
    | with_reducible assumption | with_reducible apply State.modWasteStand_quiet | split | dsimp only

theorem State.recordAtStop_quiet (h : State.Quiet s₀ s) {x_ : Nat} {h_ : Handle} :
    State.Quiet s₀ (s.recordAtStop x_ h_) := by
  unfold State.recordAtStop
  repeat' first
    | with_reducible assumption | with_reducible apply State.modPlant_quiet | split | dsimp only

theorem State.recordOnArm_quiet (h : State.Quiet s₀ s) {n_ : Nat} {m_ : Arm} {h_ : Handle} :
    State.Quiet s₀ (s.recordOnArm n_ m_ h_) := by
  unfold State.recordOnArm
  repeat' first
    | ((try lift_lets); intro q; first | (refine (fun (hq : State.Quiet s₀ q) => ?_) ?_; rotate_left; subst q; rotate_right; clear_value q) | clear_value q)
    | with_reducible assumption | with_reducible apply State.modPlant_quiet | with_reducible apply State.modArm_quiet
    | with_reducible apply State.recordFolder_quiet | split | dsimp only

theorem State.recordAt_quiet (h : State.Quiet s₀ s) {pl_ : Place} {h_ : Handle} :
    State.Quiet s₀ (s.recordAt pl_ h_) := by
  unfold State.recordAt
  repeat' first
    | with_reducible assumption | with_reducible apply State.recordAtStop_quiet
    | with_reducible apply State.recordOnArm_quiet | split | dsimp only

theorem State.merge_quiet (h : State.Quiet s₀ s) {x_ : Handle} {u_ : Handle} {ru_ : Roll} :
    State.Quiet s₀ (s.merge x_ u_ ru_) := by
  unfold State.merge
  repeat' first
    | with_reducible assumption | with_reducible apply State.modPlant_quiet
    | with_reducible apply State.modWaste_quiet | split | (intro _; rfl) | dsimp only

theorem State.noticeNew_quiet (h : State.Quiet s₀ s) {pl_ : Place} {sn_ : Snapshot} :
    State.Quiet s₀ (s.noticeNew pl_ sn_) := by
  unfold State.noticeNew
  repeat' first
    | ((try lift_lets); intro q; first | (refine (fun (hq : ∀ t, State.Quiet s₀ (q t)) => ?_) ?_; rotate_left; subst q; rotate_right; clear_value q) | (refine (fun (hq : State.Quiet s₀ q) => ?_) ?_; rotate_left; subst q; rotate_right; clear_value q) | clear_value q)
    | with_reducible assumption | with_reducible apply hq | with_reducible apply State.event_quiet
    | with_reducible apply State.modPlant_quiet | with_reducible apply State.recordAt_quiet | split | intro _ _
    | intro _ | with_reducible refine State.withPlant_quiet ‹State.Quiet _ _› | dsimp only

theorem State.noticeHeld_quiet (h : State.Quiet s₀ s) {pl_ : Place} {sn_ : Snapshot} {x_ : Handle} :
    State.Quiet s₀ (s.noticeHeld pl_ sn_ x_) := by
  unfold State.noticeHeld
  repeat' first
    | ((try lift_lets); intro q; first | (refine (fun (hq : State.Quiet s₀ q) => ?_) ?_; rotate_left; subst q; rotate_right; clear_value q) | clear_value q)
    | with_reducible assumption | with_reducible apply State.modPlant_quiet | with_reducible apply State.merge_quiet
    | with_reducible apply State.event_quiet | with_reducible apply State.recordAt_quiet | split | dsimp only

theorem State.takeNotice_quiet (h : State.Quiet s₀ s) {f_ : Frame} :
    State.Quiet s₀ (s.takeNotice f_) := by
  unfold State.takeNotice
  repeat' first
    | ((try lift_lets); intro q; first | (refine (fun (hq : State.Quiet s₀ q) => ?_) ?_; rotate_left; subst q; rotate_right; clear_value q) | clear_value q)
    | with_reducible assumption | with_reducible apply State.event_quiet | with_reducible apply State.noticeNew_quiet
    | with_reducible apply State.noticeHeld_quiet | split | dsimp only

theorem State.reconcileStand_quiet (h : State.Quiet s₀ s) {c_ : Cart} {x_ : Nat} {n_ : Nat} :
    State.Quiet s₀ (s.reconcileStand c_ x_ n_) := by
  unfold State.reconcileStand
  repeat' first
    | ((try lift_lets); intro q; first | (refine (fun (hq : State.Quiet s₀ q) => ?_) ?_; rotate_left; subst q; rotate_right; clear_value q) | clear_value q)
    | with_reducible assumption | with_reducible apply State.modPlant_quiet
    | with_reducible apply State.armInput_quiet | split | dsimp only

theorem State.returnToAuto_quiet (h : State.Quiet s₀ s) {cart_ : Nat} {x_ : Nat} :
    State.Quiet s₀ (s.returnToAuto cart_ x_) := by
  unfold State.returnToAuto
  repeat' first
    | ((try lift_lets); intro q; first | (refine (fun (hq : State.Quiet s₀ q) => ?_) ?_; rotate_left; subst q; rotate_right; clear_value q) | clear_value q)
    | with_reducible assumption | with_reducible apply State.modPlant_quiet
    | with_reducible apply State.reconcileStand_quiet | split | dsimp only

theorem State.stopRead_quiet (h : State.Quiet s₀ s) {x_ : Nat} {cart_ : Nat} {manual_ : Bool} {loaded_ : Bool} :
    State.Quiet s₀ (s.stopRead x_ cart_ manual_ loaded_) := by
  unfold State.stopRead
  repeat' first
    | ((try lift_lets); intro q; first | (refine (fun (hq : State.Quiet s₀ q) => ?_) ?_; rotate_left; subst q; rotate_right; clear_value q) | clear_value q)
    | with_reducible assumption | with_reducible apply State.modPlant_quiet
    | with_reducible apply State.returnToAuto_quiet | split | dsimp only

theorem State.ignoreFrame_quiet (h : State.Quiet s₀ s) :
    State.Quiet s₀ (s.ignoreFrame) := by
  unfold State.ignoreFrame
  repeat' first
    | with_reducible assumption | with_reducible apply State.modPlant_quiet | split | dsimp only

theorem State.popFrame_quiet (h : State.Quiet s₀ s) :
    State.Quiet s₀ (s.popFrame) := by
  unfold State.popFrame
  repeat' first
    | with_reducible assumption | with_reducible apply State.modPlant_quiet | split | dsimp only

theorem State.takeStatusRequest_quiet (h : State.Quiet s₀ s) {f_ : Frame} :
    State.Quiet s₀ (s.takeStatusRequest f_) := by
  unfold State.takeStatusRequest
  repeat' first
    | ((try lift_lets); intro q; first | (refine (fun (hq : State.Quiet s₀ q) => ?_) ?_; rotate_left; subst q; rotate_right; clear_value q) | clear_value q)
    | with_reducible assumption | with_reducible apply State.modPlant_quiet | split | dsimp only

theorem State.fillTables_quiet (h : State.Quiet s₀ s) {i_ : Image} :
    State.Quiet s₀ (s.fillTables i_) := by
  unfold State.fillTables
  repeat' first
    | ((try lift_lets); intro q; first | (refine (fun (hq : State.Quiet s₀ q) => ?_) ?_; rotate_left; subst q; rotate_right; clear_value q) | clear_value q)
    | with_reducible assumption | with_reducible apply State.modPlant_quiet
    | with_reducible apply State.modPress_quiet | split | (intro _; rfl) | dsimp only

theorem State.setNode_quiet (h : State.Quiet s₀ s) {n_ : NodeState} :
    State.Quiet s₀ (s.setNode n_) := by
  unfold State.setNode
  repeat' first
    | with_reducible assumption | with_reducible apply State.modPlant_quiet | split | dsimp only

theorem State.startSurvey_quiet (h : State.Quiet s₀ s) :
    State.Quiet s₀ (s.startSurvey) := by
  unfold State.startSurvey
  repeat' first
    | with_reducible assumption | with_reducible apply State.setNode_quiet
    | with_reducible apply State.modPlant_quiet | with_reducible apply State.modPress_quiet
    | with_reducible apply State.speedWindow_quiet | split | (intro _; rfl) | dsimp only

theorem State.surveyArm_quiet (h : State.Quiet s₀ s) {n_ : Nat} {m_ : Arm} :
    State.Quiet s₀ (s.surveyArm n_ m_) := by
  unfold State.surveyArm
  repeat' first
    | with_reducible assumption | with_reducible apply State.modArm_quiet | with_reducible apply State.modStand_quiet
    | with_reducible apply State.resetFolder_quiet | split
    | with_reducible refine State.withPlant_quiet ‹State.Quiet _ _› | dsimp only

theorem State.surveyRolls_quiet (h : State.Quiet s₀ s) :
    State.Quiet s₀ (s.surveyRolls) := by
  unfold State.surveyRolls
  repeat' first
    | with_reducible assumption | with_reducible apply State.surveyArm_quiet
    | with_reducible apply State.modPlant_quiet | with_reducible apply forEach_quiet | split | intro _ _ _
    | dsimp only

theorem State.endSurvey_quiet (h : State.Quiet s₀ s) :
    State.Quiet s₀ (s.endSurvey) := by
  unfold State.endSurvey
  repeat' first
    | ((try lift_lets); intro q; first | (refine (fun (hq : State.Quiet s₀ q) => ?_) ?_; rotate_left; subst q; rotate_right; clear_value q) | clear_value q)
    | with_reducible assumption | with_reducible apply State.setNode_quiet | with_reducible apply State.event_quiet
    | with_reducible apply State.surveyRolls_quiet | with_reducible apply State.modPlant_quiet
    | with_reducible apply State.settle_quiet | with_reducible apply forEach_quiet | split | intro _ _ _ | dsimp only

theorem State.settle_quiet (h : State.Quiet s₀ s) :
    State.Quiet s₀ (s.settle) := by
  unfold State.settle
  repeat' first
    | with_reducible assumption | with_reducible apply State.modPlant_quiet | split | dsimp only

theorem State.onLine_quiet (h : State.Quiet s₀ s) {act : State → State}
    (ha : ∀ t, State.Quiet s₀ t → State.Quiet s₀ (act t)) : State.Quiet s₀ (s.onLine act) := by
  unfold State.onLine
  split
  · exact ha _ h
  · exact h

theorem State.deliver_quiet (h : State.Quiet s₀ s) {pt_ : FieldPoint} {v_ : PointInput} :
    State.Quiet s₀ (s.deliver pt_ v_) := by
  unfold State.deliver
  repeat' first
    | with_reducible assumption | with_reducible apply State.modPlant_quiet
    | with_reducible apply State.stopRead_quiet | with_reducible apply State.onLine_quiet
    | with_reducible apply State.readyConfirm_quiet | with_reducible apply State.spliceNow_quiet
    | with_reducible apply State.armLoadedChanged_quiet | with_reducible apply State.webPresentChanged_quiet | split
    | intro _ _ | dsimp only

theorem State.takePoint_quiet (h : State.Quiet s₀ s) {m_ : Nat} {pv_ : Nat × PointInput} :
    State.Quiet s₀ (State.takePoint m_ s pv_) := by
  unfold State.takePoint
  repeat' first
    | ((try lift_lets); intro q; first | (refine (fun (hq : State.Quiet s₀ q) => ?_) ?_; rotate_left; subst q; rotate_right; clear_value q) | clear_value q)
    | with_reducible assumption | with_reducible apply State.modPlant_quiet
    | with_reducible apply State.deliver_quiet | with_reducible apply State.settle_quiet | split | dsimp only

theorem State.standBack_quiet (h : State.Quiet s₀ s) {m_ : Nat} {held_ : ModuleRec} {pt_ : Nat} :
    State.Quiet s₀ (s.standBack m_ held_ pt_) := by
  unfold State.standBack
  repeat' first
    | ((try lift_lets); intro q; first | (refine (fun (hq : State.Quiet s₀ q) => ?_) ?_; rotate_left; subst q; rotate_right; clear_value q) | clear_value q)
    | with_reducible assumption | with_reducible apply State.deliver_quiet | split | dsimp only

theorem State.armBack_quiet (h : State.Quiet s₀ s) {n_ : Nat} {m_ : Arm} : State.Quiet s₀ (s.armBack n_ m_) := by
  unfold State.armBack
  split
  · split
    · exact h
    split
    · split
      · exact State.recordOnArm_quiet (State.withPlant_quiet h)
      · exact State.event_quiet h
    split
    · exact State.armInput_quiet h
    · exact h
  · exact h

theorem State.armsBack_quiet (h : State.Quiet s₀ s) {m_ : Nat} : State.Quiet s₀ (s.armsBack m_) := by
  unfold State.armsBack
  refine forEach_quiet h fun q c hq => State.onLine_quiet hq ?_
  exact fun r hr => State.armBack_quiet (State.armBack_quiet hr)

theorem State.surveyAgain_quiet (h : State.Quiet s₀ s) {r_ : ModuleRec} {inputs_ : List PointInput} :
    State.Quiet s₀ (s.surveyAgain r_ inputs_) := by
  unfold State.surveyAgain
  repeat' first
    | ((try lift_lets); intro q; first | (refine (fun (hq : State.Quiet s₀ q) => ?_) ?_; rotate_left; subst q; rotate_right; clear_value q) | clear_value q)
    | with_reducible assumption | with_reducible apply State.modPlant_quiet
    | with_reducible apply State.standBack_quiet | with_reducible apply State.armsBack_quiet | with_reducible apply State.settle_quiet
    | with_reducible apply forEach_quiet | split | intro _ _ _ | dsimp only

theorem State.fieldAnswer_quiet (h : State.Quiet s₀ s) {m_ : Nat} {inputs_ : List PointInput} :
    State.Quiet s₀ (s.fieldAnswer m_ inputs_) := by
  unfold State.fieldAnswer
  repeat' first
    | ((try lift_lets); intro q; first | (refine (fun (hq : State.Quiet s₀ q) => ?_) ?_; rotate_left; subst q; rotate_right; clear_value q) | clear_value q)
    | with_reducible assumption | with_reducible apply State.surveyAgain_quiet
    | with_reducible apply State.modPlant_quiet | with_reducible apply State.takePoint_quiet
    | with_reducible apply forEach_quiet | split | intro _ _ _ | dsimp only

theorem State.missedScan_quiet (h : State.Quiet s₀ s) {m_ : Nat} :
    State.Quiet s₀ (s.missedScan m_) := by
  unfold State.missedScan
  repeat' first
    | with_reducible assumption | with_reducible apply State.modPlant_quiet | split | dsimp only

theorem State.fieldEvent_quiet (h : State.Quiet s₀ s) {k_ : FieldPoint} {v_ : PointInput} :
    State.Quiet s₀ (s.fieldEvent k_ v_) := by
  unfold State.fieldEvent
  repeat' first
    | ((try lift_lets); intro q; first | (refine (fun (hq : State.Quiet s₀ q) => ?_) ?_; rotate_left; subst q; rotate_right; clear_value q) | clear_value q)
    | with_reducible assumption | with_reducible apply State.modPlant_quiet
    | with_reducible apply State.deliver_quiet | with_reducible apply State.settle_quiet | split | dsimp only

theorem State.button_quiet (h : State.Quiet s₀ s) {k_ : FieldPoint} :
    State.Quiet s₀ (s.button k_) := by
  unfold State.button
  repeat' first
    | with_reducible assumption | with_reducible apply State.deliver_quiet | with_reducible apply State.settle_quiet
    | split | dsimp only

end Sys2Proof.Machine
end

