-- ==== Sys2Proof/Laws/Command.lean ====
section
/-!
SUPPORT. What a command can do to the plant: one lemma per command but COLD_RESET, RESET_END, IMAGE_READ, SURVEY_END and the
two press-run edges, whose own changes of the loader or the pin are said beside them.
-/
namespace Sys2Proof.Machine

/-- The command answers a next state that `State.Leads` allows. -/
def Leading (c : Instr) (s : State) : Prop := ∃ t, exec c s = .next t ∧ State.Leads s t

theorem State.settle_self (s : State) : State.Leads s s.settle := State.settle_leads (.refl s)

theorem modBus_leads {s : State} {f : Plant → BusPort → BusPort} (h : ∀ p b, BusPort.InOrder b → (f p b).InOrder) :
    State.Leads s (s.modPlant fun p => p.modBus (f p)) :=
  State.modPlant_leads (.refl s) fun p hp => hp.trans (.bus p fun k => h p p.bus k)

theorem frame_leads {s : State} {row : FrameRow} {act : Frame → State → State}
    (h : ∀ f t, State.Leads s t → State.Leads s (act f t)) : State.Leads s (s.takeHead row act) :=
  State.takeHead_leads (.refl s) h

theorem plant_leads {s : State} {f : Plant → Plant}
    (h : ∀ q, Plant.Reaches s.plant q → Plant.Reaches s.plant (f q)) : State.Leads s (s.modPlant f) :=
  State.modPlant_leads (.refl s) h

/-! ### The bus port -/

theorem frameReceived_leads (l : List Byte) (s : State) : Leading (.frameReceived l) s :=
  ⟨_, rfl, modBus_leads (f := fun _ b => b.receive l) fun _ _ k => BusPort.receive_inOrder k l⟩
theorem attemptStart_leads (s : State) : Leading .attemptStart s :=
  ⟨_, rfl, modBus_leads (f := fun _ b => b.startAttempt) fun _ _ k => BusPort.startAttempt_inOrder k⟩
theorem arbitrationLost_leads (s : State) : Leading .arbitrationLost s :=
  ⟨_, rfl, modBus_leads (f := fun _ b => b.loseArbitration) fun _ _ k => BusPort.land_inOrder k⟩
theorem attemptSucceeded_leads (s : State) : Leading .attemptSucceeded s :=
  ⟨_, rfl, modBus_leads (f := fun _ b => b.succeed) fun _ _ k => BusPort.succeed_inOrder k⟩
theorem attemptFailed_leads (s : State) : Leading .attemptFailed s :=
  ⟨_, rfl, modBus_leads (f := fun p b => b.fail p.now) fun p _ k => BusPort.fail_inOrder k p.now⟩
theorem silentEntry_leads (s : State) : Leading .silentEntry s :=
  ⟨_, rfl, modBus_leads (f := fun p b => b.enterSilent p.now) fun p _ k => BusPort.enterSilent_inOrder k p.now⟩
theorem silentEnd_leads (s : State) : Leading .silentEnd s :=
  ⟨_, rfl, modBus_leads (f := fun p b => b.endSilent p.now) fun p _ k => BusPort.endSilent_inOrder k p.now⟩

/-! ### Frames -/

theorem call_leads (s : State) : Leading .call s :=
  ⟨_, rfl, frame_leads fun _ _ h => State.modPlant_leads h fun _ h => Plant.considerCall_reaches h⟩
theorem offer_leads (s : State) : Leading .offer s :=
  ⟨_, rfl, frame_leads fun _ _ h => State.modPlant_leads h fun _ h => Plant.takeOffer_reaches h⟩
theorem take_leads (s : State) : Leading .take s :=
  ⟨_, rfl, frame_leads fun _ _ h => State.settle_leads (State.modPlant_leads h fun _ h => Plant.takeTake_reaches h)⟩
theorem close_leads (s : State) : Leading .close s :=
  ⟨_, rfl, frame_leads fun _ _ h => State.modPlant_leads h fun _ h => Plant.takeClose_reaches h⟩
theorem gone_leads (s : State) : Leading .gone s :=
  ⟨_, rfl, frame_leads fun _ _ h => State.modPlant_leads h fun _ h => Plant.takeGone_reaches h⟩
theorem shipComing_leads (s : State) : Leading .shipComing s :=
  ⟨_, rfl, frame_leads fun _ _ h => State.modPlant_leads h fun _ h => Plant.takeComing_reaches h⟩
theorem shipReady_leads (s : State) : Leading .shipReady s :=
  ⟨_, rfl, frame_leads fun _ _ h => State.modPlant_leads h fun _ h => Plant.takeReady_reaches h⟩
theorem accept_leads (s : State) : Leading .accept s :=
  ⟨_, rfl, frame_leads fun _ _ h => State.modPlant_leads h fun _ h => Plant.takeAccept_reaches h⟩
theorem refuse_leads (s : State) : Leading .refuse s :=
  ⟨_, rfl, frame_leads fun _ _ h => State.settle_leads (State.modPlant_leads h fun _ h => Plant.takeRefuse_reaches h)⟩
theorem landed_leads (s : State) : Leading .landed s :=
  ⟨_, rfl, frame_leads fun _ _ h => State.settle_leads (State.modPlant_leads h fun _ h => Plant.takeLanded_reaches h)⟩
theorem rollNotice_leads (s : State) : Leading .rollNotice s :=
  ⟨_, rfl, frame_leads fun _ _ h => State.settle_leads (State.takeNotice_leads h)⟩
theorem edition_leads (s : State) : Leading .edition s :=
  ⟨_, rfl, frame_leads fun _ _ h => State.takeEdition_leads h⟩
theorem amend_leads (s : State) : Leading .amend s :=
  ⟨_, rfl, frame_leads fun _ _ h => State.takeAmend_leads h⟩
theorem editionEnd_leads (s : State) : Leading .editionEnd s :=
  ⟨_, rfl, frame_leads fun _ _ h => State.takeEnd_leads h⟩
theorem divert_leads (s : State) : Leading .divert s :=
  ⟨_, rfl, frame_leads fun _ _ h => State.takeDivert_leads h⟩
theorem requestTally_leads (s : State) : Leading .requestTally s :=
  ⟨_, rfl, frame_leads fun _ _ h => State.tally_leads h⟩
theorem requestStatus_leads (s : State) : Leading .requestStatus s :=
  ⟨_, rfl, frame_leads fun _ _ h => State.takeStatusRequest_leads h⟩

/-! ### Waits of the supply unit -/

theorem offerWindowExpiry_leads (n : Nat) (s : State) : Leading (.offerWindowExpiry n) s :=
  ⟨_, rfl, plant_leads fun _ h => Plant.offerWindowEnd_reaches h⟩
theorem shipWaitExpiry_leads (n : Nat) (s : State) : Leading (.shipWaitExpiry n) s :=
  ⟨_, rfl, plant_leads fun _ h => Plant.shipWaitEnd_reaches h⟩
theorem retryExpiry_leads (n : Nat) (s : State) : Leading (.retryExpiry n) s :=
  ⟨_, rfl, plant_leads fun _ h => Plant.retryEnd_reaches h⟩
theorem callerLandingExpiry_leads (n : Nat) (s : State) : Leading (.callerLandingExpiry n) s :=
  ⟨_, rfl, State.settle_leads (plant_leads fun _ h => Plant.callerLandingEnd_reaches h)⟩
theorem comingRepeat_leads (n : Nat) (s : State) : Leading (.comingRepeat n) s :=
  ⟨_, rfl, plant_leads fun _ h => Plant.repeatComing_reaches h⟩
theorem acceptWaitExpiry_leads (n : Nat) (s : State) : Leading (.acceptWaitExpiry n) s :=
  ⟨_, rfl, State.settle_leads (plant_leads fun _ h => Plant.acceptWaitEnd_reaches h)⟩
theorem conveyorClearExpiry_leads (n : Nat) (s : State) : Leading (.conveyorClearExpiry n) s :=
  ⟨_, rfl, State.settle_leads (plant_leads fun _ h => Plant.conveyorClearEnd_reaches h)⟩
theorem giverLandingExpiry_leads (n : Nat) (s : State) : Leading (.giverLandingExpiry n) s :=
  ⟨_, rfl, State.settle_leads (plant_leads fun _ h => Plant.giverLandingEnd_reaches h)⟩
theorem holdExpiry_leads (c n : Nat) (s : State) : Leading (.holdExpiry c n) s :=
  ⟨_, rfl, plant_leads fun _ h => Plant.holdEnd_reaches h⟩

/-! ### Field link, track and carts -/

theorem fieldAnswer_leads (m : Nat) (i : List PointInput) (s : State) : Leading (.fieldAnswer m i) s :=
  ⟨_, rfl, State.fieldAnswer_leads (.refl s)⟩
theorem missedScan_leads (m : Nat) (s : State) : Leading (.missedScan m) s :=
  ⟨_, rfl, State.missedScan_leads (.refl s)⟩
theorem moduleLost_leads (m : Nat) (s : State) : Leading (.moduleLost m) s :=
  ⟨_, rfl, by
    split
    · exact plant_leads fun _ h => Plant.loseModule_reaches h
    · exact .refl s⟩
theorem occupancyChange_leads (n : Nat) (on : Bool) (s : State) : Leading (.occupancyChange n on) s :=
  ⟨_, rfl, State.fieldEvent_leads (.refl s)⟩
theorem sectionTagRead_leads (n c : Nat) (m l : Bool) (s : State) : Leading (.sectionTagRead n c m l) s :=
  ⟨_, rfl, State.fieldEvent_leads (.refl s)⟩
theorem stopTagRead_leads (n c : Nat) (m l : Bool) (s : State) : Leading (.stopTagRead n c m l) s :=
  ⟨_, rfl, State.fieldEvent_leads (.refl s)⟩
theorem stopTagGone_leads (n c : Nat) (s : State) : Leading (.stopTagGone n c) s :=
  ⟨_, rfl, State.fieldEvent_leads (.refl s)⟩
theorem rollSensorChange_leads (n : Nat) (on : Bool) (s : State) : Leading (.rollSensorChange n on) s :=
  ⟨_, rfl, State.fieldEvent_leads (.refl s)⟩
theorem armLoadedChange_leads (n : Nat) (m : Arm) (on : Bool) (s : State) : Leading (.armLoadedChange n m on) s :=
  ⟨_, rfl, State.fieldEvent_leads (.refl s)⟩
theorem webPresentChange_leads (n : Nat) (on : Bool) (s : State) : Leading (.webPresentChange n on) s :=
  ⟨_, rfl, State.fieldEvent_leads (.refl s)⟩
theorem prepConfirm_leads (n : Nat) (s : State) : Leading (.prepConfirm n) s :=
  ⟨_, rfl, State.button_leads (.refl s)⟩
theorem prepReject_leads (n : Nat) (s : State) : Leading (.prepReject n) s :=
  ⟨_, rfl, State.button_leads (.refl s)⟩
theorem readyConfirm_leads (n : Nat) (m : Arm) (s : State) : Leading (.readyConfirm n m) s :=
  ⟨_, rfl, State.button_leads (.refl s)⟩
theorem spliceNow_leads (n : Nat) (s : State) : Leading (.spliceNow n) s :=
  ⟨_, rfl, State.button_leads (.refl s)⟩
theorem startWaitExpiry_leads (n : Nat) (s : State) : Leading (.startWaitExpiry n) s :=
  ⟨_, rfl, State.settle_leads (plant_leads fun _ h => Plant.startWaitEnd_reaches h)⟩
theorem transitExpiry_leads (n : Nat) (s : State) : Leading (.transitExpiry n) s :=
  ⟨_, rfl, State.settle_leads (plant_leads fun _ h => Plant.transitEnd_reaches h)⟩
theorem transferTimeout_leads (n : Nat) (s : State) : Leading (.transferTimeout n) s :=
  ⟨_, rfl, State.settle_leads (plant_leads fun _ h => Plant.transferEnd_reaches h)⟩

/-! ### Stands, copies and windows -/

theorem webPulse_leads (n : Nat) (s : State) : Leading (.webPulse n) s :=
  ⟨_, rfl, by
    split
    · exact State.modWeb_leads (.refl s)
    · exact .refl s⟩
theorem knife_leads (n : Nat) (s : State) : Leading (.knife n) s :=
  ⟨_, rfl, by
    split
    · exact State.settle_leads (State.fireKnife_leads (.refl s))
    · exact .refl s⟩
theorem verifyPassed_leads (n : Nat) (s : State) : Leading (.verifyPassed n) s :=
  ⟨_, rfl, by
    split
    · exact State.verifyDone_leads (.refl s)
    · exact .refl s⟩
theorem revolutionPulse_leads (n : Nat) (m : Arm) (s : State) : Leading (.revolutionPulse n m) s :=
  ⟨_, rfl, State.armPulse_leads (.refl s)⟩
theorem standbyPulse_leads (n : Nat) (m : Arm) (s : State) : Leading (.standbyPulse n m) s :=
  ⟨_, rfl, State.armPulse_leads (.refl s)⟩
theorem enterMatched_leads (n : Nat) (s : State) : Leading (.enterMatched n) s :=
  ⟨_, rfl, by
    split
    · exact State.enterMatched_leads (.refl s)
    · exact .refl s⟩
theorem paste_leads (n : Nat) (s : State) : Leading (.paste n) s :=
  ⟨_, rfl, by
    split
    · exact State.paste_leads (.refl s)
    · exact .refl s⟩
theorem outputPulseEnd_leads (n : Nat) (o : PulsedOutput) (s : State) : Leading (.outputPulseEnd n o) s :=
  ⟨_, rfl, State.modStand_leads (.refl s)⟩
theorem copyPulse_leads (s : State) : Leading (.copyPulse) s :=
  ⟨_, rfl, by
    split
    · exact State.copyPulse_leads (.refl s)
    · exact .refl s⟩
theorem trimWindowEnd_leads (n : Nat) (s : State) : Leading (.trimWindowEnd n) s :=
  ⟨_, rfl, by
    split
    · exact State.endTrimOf_leads (.refl s)
    · exact .refl s⟩
theorem speedWindow_leads (s : State) : Leading .speedWindow s :=
  ⟨_, rfl, State.speedWindow_leads (.refl s)⟩
theorem pulseLost_leads (n : Nat) (s : State) : Leading (.pulseLost n) s :=
  ⟨_, rfl, by
    split
    · exact State.pulseLost_leads (.refl s)
    · exact .refl s⟩
theorem decelStopped_leads (n : Nat) (s : State) : Leading (.decelStopped n) s :=
  ⟨_, rfl, by
    split
    · exact plant_leads fun _ h => Plant.decelStopped_reaches h
    · exact .refl s⟩
theorem buttStopped_leads (n : Nat) (m : Arm) (s : State) : Leading (.buttStopped n m) s :=
  ⟨_, rfl, by
    split
    · exact State.settle_leads (plant_leads fun _ h => Plant.buttStopped_reaches h)
    · exact .refl s⟩

/-! ### The press-run pin -/

/-- A press-run edge sets the pin's level, and leads on from there. -/
theorem pressRunRise_leads (s : State) :
    ∃ t, exec .pressRunRise s = .next t ∧ State.Leads (s.setPressRun true) t :=
  ⟨_, rfl, by
    dsimp only
    split
    · exact State.pressRise_leads (.refl _)
    · exact .refl _⟩
theorem pressRunFall_leads (s : State) :
    ∃ t, exec .pressRunFall s = .next t ∧ State.Leads (s.setPressRun false) t :=
  ⟨_, rfl, by
    dsimp only
    split
    · exact State.settle_leads (State.pressFall_leads (.refl _))
    · exact .refl _⟩

/-- The six commands with a change of their own that `State.Leads` does not allow. -/
def Instr.special : Instr → Bool
  | .coldReset => true
  | .resetEnd => true
  | .imageRead .. => true
  | .surveyEnd => true
  | .frameReceived .. => false
  | .attemptStart => false
  | .arbitrationLost => false
  | .attemptSucceeded => false
  | .attemptFailed => false
  | .silentEntry => false
  | .silentEnd => false
  | .call => false
  | .offer => false
  | .take => false
  | .close => false
  | .gone => false
  | .shipComing => false
  | .shipReady => false
  | .accept => false
  | .refuse => false
  | .landed => false
  | .rollNotice => false
  | .edition => false
  | .amend => false
  | .editionEnd => false
  | .divert => false
  | .requestTally => false
  | .requestStatus => false
  | .offerWindowExpiry .. => false
  | .shipWaitExpiry .. => false
  | .retryExpiry .. => false
  | .callerLandingExpiry .. => false
  | .holdExpiry .. => false
  | .comingRepeat .. => false
  | .acceptWaitExpiry .. => false
  | .conveyorClearExpiry .. => false
  | .giverLandingExpiry .. => false
  | .fieldAnswer .. => false
  | .missedScan .. => false
  | .moduleLost .. => false
  | .occupancyChange .. => false
  | .sectionTagRead .. => false
  | .stopTagRead .. => false
  | .stopTagGone .. => false
  | .startWaitExpiry .. => false
  | .transitExpiry .. => false
  | .transferTimeout .. => false
  | .rollSensorChange .. => false
  | .readyConfirm .. => false
  | .spliceNow .. => false
  | .armLoadedChange .. => false
  | .webPresentChange .. => false
  | .prepConfirm .. => false
  | .prepReject .. => false
  | .webPulse .. => false
  | .knife .. => false
  | .verifyPassed .. => false
  | .revolutionPulse .. => false
  | .standbyPulse .. => false
  | .enterMatched .. => false
  | .paste .. => false
  | .outputPulseEnd .. => false
  | .copyPulse => false
  | .trimWindowEnd .. => false
  | .pressRunRise => true
  | .pressRunFall => true
  | .speedWindow => false
  | .pulseLost .. => false
  | .decelStopped .. => false
  | .buttStopped .. => false

/-- Every other command leads on from the state it is given. -/
theorem exec_leads (c : Instr) (s : State) (h : Instr.special c = false) : Leading c s := by
  cases c with
  | coldReset => cases h
  | resetEnd => cases h
  | imageRead x0 => cases h
  | surveyEnd => cases h
  | frameReceived x0 => exact frameReceived_leads x0 s
  | attemptStart => exact attemptStart_leads s
  | arbitrationLost => exact arbitrationLost_leads s
  | attemptSucceeded => exact attemptSucceeded_leads s
  | attemptFailed => exact attemptFailed_leads s
  | silentEntry => exact silentEntry_leads s
  | silentEnd => exact silentEnd_leads s
  | call => exact call_leads s
  | offer => exact offer_leads s
  | take => exact take_leads s
  | close => exact close_leads s
  | gone => exact gone_leads s
  | shipComing => exact shipComing_leads s
  | shipReady => exact shipReady_leads s
  | accept => exact accept_leads s
  | refuse => exact refuse_leads s
  | landed => exact landed_leads s
  | rollNotice => exact rollNotice_leads s
  | edition => exact edition_leads s
  | amend => exact amend_leads s
  | editionEnd => exact editionEnd_leads s
  | divert => exact divert_leads s
  | requestTally => exact requestTally_leads s
  | requestStatus => exact requestStatus_leads s
  | offerWindowExpiry x0 => exact offerWindowExpiry_leads x0 s
  | shipWaitExpiry x0 => exact shipWaitExpiry_leads x0 s
  | retryExpiry x0 => exact retryExpiry_leads x0 s
  | callerLandingExpiry x0 => exact callerLandingExpiry_leads x0 s
  | holdExpiry x0 x1 => exact holdExpiry_leads x0 x1 s
  | comingRepeat x0 => exact comingRepeat_leads x0 s
  | acceptWaitExpiry x0 => exact acceptWaitExpiry_leads x0 s
  | conveyorClearExpiry x0 => exact conveyorClearExpiry_leads x0 s
  | giverLandingExpiry x0 => exact giverLandingExpiry_leads x0 s
  | fieldAnswer x0 x1 => exact fieldAnswer_leads x0 x1 s
  | missedScan x0 => exact missedScan_leads x0 s
  | moduleLost x0 => exact moduleLost_leads x0 s
  | occupancyChange x0 x1 => exact occupancyChange_leads x0 x1 s
  | sectionTagRead x0 x1 x2 x3 => exact sectionTagRead_leads x0 x1 x2 x3 s
  | stopTagRead x0 x1 x2 x3 => exact stopTagRead_leads x0 x1 x2 x3 s
  | stopTagGone x0 x1 => exact stopTagGone_leads x0 x1 s
  | startWaitExpiry x0 => exact startWaitExpiry_leads x0 s
  | transitExpiry x0 => exact transitExpiry_leads x0 s
  | transferTimeout x0 => exact transferTimeout_leads x0 s
  | rollSensorChange x0 x1 => exact rollSensorChange_leads x0 x1 s
  | readyConfirm x0 x1 => exact readyConfirm_leads x0 x1 s
  | spliceNow x0 => exact spliceNow_leads x0 s
  | armLoadedChange x0 x1 x2 => exact armLoadedChange_leads x0 x1 x2 s
  | webPresentChange x0 x1 => exact webPresentChange_leads x0 x1 s
  | prepConfirm x0 => exact prepConfirm_leads x0 s
  | prepReject x0 => exact prepReject_leads x0 s
  | webPulse x0 => exact webPulse_leads x0 s
  | knife x0 => exact knife_leads x0 s
  | verifyPassed x0 => exact verifyPassed_leads x0 s
  | revolutionPulse x0 x1 => exact revolutionPulse_leads x0 x1 s
  | standbyPulse x0 x1 => exact standbyPulse_leads x0 x1 s
  | enterMatched x0 => exact enterMatched_leads x0 s
  | paste x0 => exact paste_leads x0 s
  | outputPulseEnd x0 x1 => exact outputPulseEnd_leads x0 x1 s
  | copyPulse => exact copyPulse_leads s
  | trimWindowEnd x0 => exact trimWindowEnd_leads x0 s
  | pressRunRise => cases h
  | pressRunFall => cases h
  | speedWindow => exact speedWindow_leads s
  | pulseLost x0 => exact pulseLost_leads x0 s
  | decelStopped x0 => exact decelStopped_leads x0 s
  | buttStopped x0 x1 => exact buttStopped_leads x0 x1 s

end Sys2Proof.Machine
end

