-- ==== Sys2Proof/WellFormed.lean ====
section
/-!
DEFINITION. Which commands the hardware can present: each operand within the range the manual gives its kind
(00_scope Identities; 11 R183 COUNT; 10 section 10.1). The meanings are total: a command that names nothing
configured has no effect, so no meaning depends on this check.
-/
namespace Sys2Proof

/-- Stands 1 to 4. -/
def standOk (n : Nat) : Bool := 1 ≤ n && n ≤ 4
/-- Links 1 to 4. -/
def linkOk (n : Nat) : Bool := 1 ≤ n && n ≤ 4
/-- Carts 1 to 4 have records; a tag may name any one-byte cart number (R67). -/
def cartOk (n : Nat) : Bool := 1 ≤ n && n ≤ 4
def tagCartOk (n : Nat) : Bool := n ≤ 255
/-- Sections 1 to 12. -/
def sectionOk (n : Nat) : Bool := 1 ≤ n && n ≤ 12
/-- Stops 1 to 40. -/
def stopOk (n : Nat) : Bool := 1 ≤ n && n ≤ 40
/-- Field modules 1 to 16, each with at most 64 points. -/
def moduleOk (n : Nat) : Bool := 1 ≤ n && n ≤ 16
/-- Nodes 1 to 30 on the reel bus. -/
def nodeOk (n : Nat) : Bool := 1 ≤ n && n ≤ 30

def PointInput.wellFormed : PointInput → Bool
  | .nothing => true
  | .level _ => true
  | .tag c _ _ => tagCartOk c
  | .gone c => tagCartOk c

/-- Every operand within its range. A frame on the line has 6 to 38 bytes when its length byte is at most 32, and up to
261 otherwise (10 section 10.1); a configuration memory holds at most what a two-byte image length can name. -/
def Instr.wellFormed : Instr → Bool
  | .coldReset => true
  | .resetEnd => true
  | .imageRead none => true
  | .imageRead (some m) => m.length ≤ 65535
  | .surveyEnd => true
  | .frameReceived l => l.length ≤ 261
  | .attemptStart => true
  | .arbitrationLost => true
  | .attemptSucceeded => true
  | .attemptFailed => true
  | .silentEntry => true
  | .silentEnd => true
  | .call => true
  | .offer => true
  | .take => true
  | .close => true
  | .gone => true
  | .shipComing => true
  | .shipReady => true
  | .accept => true
  | .refuse => true
  | .landed => true
  | .rollNotice => true
  | .edition => true
  | .amend => true
  | .editionEnd => true
  | .divert => true
  | .requestTally => true
  | .requestStatus => true
  | .offerWindowExpiry s => standOk s
  | .shipWaitExpiry s => standOk s
  | .retryExpiry s => standOk s
  | .callerLandingExpiry l => linkOk l
  | .holdExpiry c n => nodeOk c && n ≤ 255
  | .comingRepeat l => linkOk l
  | .acceptWaitExpiry l => linkOk l
  | .conveyorClearExpiry l => linkOk l
  | .giverLandingExpiry l => linkOk l
  | .fieldAnswer m is => moduleOk m && is.length ≤ 64 && is.all PointInput.wellFormed
  | .missedScan m => moduleOk m
  | .moduleLost m => moduleOk m
  | .occupancyChange s _ => sectionOk s
  | .sectionTagRead s c _ _ => sectionOk s && tagCartOk c
  | .stopTagRead x c _ _ => stopOk x && tagCartOk c
  | .stopTagGone x c => stopOk x && tagCartOk c
  | .startWaitExpiry c => cartOk c
  | .transitExpiry c => cartOk c
  | .transferTimeout c => cartOk c
  | .rollSensorChange x _ => stopOk x
  | .readyConfirm s _ => standOk s
  | .spliceNow s => standOk s
  | .armLoadedChange s _ _ => standOk s
  | .webPresentChange s _ => standOk s
  | .prepConfirm x => stopOk x
  | .prepReject x => stopOk x
  | .webPulse s => standOk s
  | .knife s => standOk s
  | .verifyPassed s => standOk s
  | .revolutionPulse s _ => standOk s
  | .standbyPulse s _ => standOk s
  | .enterMatched s => standOk s
  | .paste s => standOk s
  | .outputPulseEnd s _ => standOk s
  | .copyPulse => true
  | .trimWindowEnd s => standOk s
  | .pressRunRise => true
  | .pressRunFall => true
  | .speedWindow => true
  | .pulseLost s => standOk s
  | .decelStopped s => standOk s
  | .buttStopped s _ => standOk s

end Sys2Proof
end

