-- ==== Sys2Proof/Laws/PerInstr.lean ====
section
/-!
SUPPORT. A statement about every command as syntax, one lemma per constructor: the numbers it carries fit the one byte each
that the reel bus and the image give them (10 section 10.5).
-/
namespace Sys2Proof.Laws.OneByte

/-- The numbers that name a node, a stand, a link, a section, a stop, a cart, a module or a call. -/
def numbers : Instr → List Nat
  | .coldReset => []
  | .resetEnd => []
  | .imageRead _ => []
  | .surveyEnd => []
  | .frameReceived _ => []
  | .attemptStart => []
  | .arbitrationLost => []
  | .attemptSucceeded => []
  | .attemptFailed => []
  | .silentEntry => []
  | .silentEnd => []
  | .call => []
  | .offer => []
  | .take => []
  | .close => []
  | .gone => []
  | .shipComing => []
  | .shipReady => []
  | .accept => []
  | .refuse => []
  | .landed => []
  | .rollNotice => []
  | .edition => []
  | .amend => []
  | .editionEnd => []
  | .divert => []
  | .requestTally => []
  | .requestStatus => []
  | .offerWindowExpiry stand => [stand]
  | .shipWaitExpiry stand => [stand]
  | .retryExpiry stand => [stand]
  | .callerLandingExpiry link => [link]
  | .holdExpiry caller callNo => [caller, callNo]
  | .comingRepeat link => [link]
  | .acceptWaitExpiry link => [link]
  | .conveyorClearExpiry link => [link]
  | .giverLandingExpiry link => [link]
  | .fieldAnswer modNo inputs => modNo :: inputs.flatMap fun i =>
    match i with
    | .tag cart _ _ => [cart]
    | .gone cart => [cart]
    | .level _ => []
    | .nothing => []
  | .missedScan modNo => [modNo]
  | .moduleLost modNo => [modNo]
  | .occupancyChange sec _ => [sec]
  | .sectionTagRead sec cart _ _ => [sec, cart]
  | .stopTagRead stop cart _ _ => [stop, cart]
  | .stopTagGone stop cart => [stop, cart]
  | .startWaitExpiry cart => [cart]
  | .transitExpiry cart => [cart]
  | .transferTimeout cart => [cart]
  | .rollSensorChange stop _ => [stop]
  | .readyConfirm stand _ => [stand]
  | .spliceNow stand => [stand]
  | .armLoadedChange stand _ _ => [stand]
  | .webPresentChange stand _ => [stand]
  | .prepConfirm stop => [stop]
  | .prepReject stop => [stop]
  | .webPulse stand => [stand]
  | .knife stand => [stand]
  | .verifyPassed stand => [stand]
  | .revolutionPulse stand _ => [stand]
  | .standbyPulse stand _ => [stand]
  | .enterMatched stand => [stand]
  | .paste stand => [stand]
  | .outputPulseEnd stand _ => [stand]
  | .copyPulse => []
  | .trimWindowEnd stand => [stand]
  | .pressRunRise => []
  | .pressRunFall => []
  | .speedWindow => []
  | .pulseLost stand => [stand]
  | .decelStopped stand => [stand]
  | .buttStopped stand _ => [stand]

def Statement (c : Instr) : Prop := c.wellFormed = true → ∀ n ∈ numbers c, n ≤ 255

theorem stand_le {n : Nat} (h : standOk n = true) : n ≤ 255 := by
  simp only [standOk, Bool.and_eq_true, decide_eq_true_eq] at h; omega
theorem link_le {n : Nat} (h : linkOk n = true) : n ≤ 255 := by
  simp only [linkOk, Bool.and_eq_true, decide_eq_true_eq] at h; omega
theorem cart_le {n : Nat} (h : cartOk n = true) : n ≤ 255 := by
  simp only [cartOk, Bool.and_eq_true, decide_eq_true_eq] at h; omega
theorem tagCart_le {n : Nat} (h : tagCartOk n = true) : n ≤ 255 := by
  simpa only [tagCartOk, decide_eq_true_eq] using h
theorem section_le {n : Nat} (h : sectionOk n = true) : n ≤ 255 := by
  simp only [sectionOk, Bool.and_eq_true, decide_eq_true_eq] at h; omega
theorem stop_le {n : Nat} (h : stopOk n = true) : n ≤ 255 := by
  simp only [stopOk, Bool.and_eq_true, decide_eq_true_eq] at h; omega
theorem module_le {n : Nat} (h : moduleOk n = true) : n ≤ 255 := by
  simp only [moduleOk, Bool.and_eq_true, decide_eq_true_eq] at h; omega
theorem node_le {n : Nat} (h : nodeOk n = true) : n ≤ 255 := by
  simp only [nodeOk, Bool.and_eq_true, decide_eq_true_eq] at h; omega

theorem none (c : Instr) (h : numbers c = []) : Statement c := fun _ n hn => by rw [h] at hn; cases hn
theorem one {a : Nat} (h : a ≤ 255) : ∀ n ∈ [a], n ≤ 255 := by simpa using h
theorem two {a b : Nat} (h : a ≤ 255) (k : b ≤ 255) : ∀ n ∈ [a, b], n ≤ 255 := by simpa using ⟨h, k⟩
theorem and_true {a b : Bool} (h : (a && b) = true) : a = true ∧ b = true := by simpa using h

theorem input {i : PointInput} (h : i.wellFormed = true) (n : Nat)
    (hn : n ∈ match i with
      | .tag cart _ _ => [cart]
      | .gone cart => [cart]
      | .level _ => []
      | .nothing => []) : n ≤ 255 := by
  cases i with
  | nothing => cases hn
  | level _ => cases hn
  | tag c _ _ => exact one (tagCart_le h) n hn
  | gone c => exact one (tagCart_le h) n hn

theorem coldReset :
    Statement .coldReset := none _ rfl
theorem resetEnd :
    Statement .resetEnd := none _ rfl
theorem imageRead (memory : Option (List Byte)) :
    Statement (.imageRead memory) := none _ rfl
theorem surveyEnd :
    Statement .surveyEnd := none _ rfl
theorem frameReceived (line : List Byte) :
    Statement (.frameReceived line) := none _ rfl
theorem attemptStart :
    Statement .attemptStart := none _ rfl
theorem arbitrationLost :
    Statement .arbitrationLost := none _ rfl
theorem attemptSucceeded :
    Statement .attemptSucceeded := none _ rfl
theorem attemptFailed :
    Statement .attemptFailed := none _ rfl
theorem silentEntry :
    Statement .silentEntry := none _ rfl
theorem silentEnd :
    Statement .silentEnd := none _ rfl
theorem call :
    Statement .call := none _ rfl
theorem offer :
    Statement .offer := none _ rfl
theorem take :
    Statement .take := none _ rfl
theorem close :
    Statement .close := none _ rfl
theorem gone :
    Statement .gone := none _ rfl
theorem shipComing :
    Statement .shipComing := none _ rfl
theorem shipReady :
    Statement .shipReady := none _ rfl
theorem accept :
    Statement .accept := none _ rfl
theorem refuse :
    Statement .refuse := none _ rfl
theorem landed :
    Statement .landed := none _ rfl
theorem rollNotice :
    Statement .rollNotice := none _ rfl
theorem edition :
    Statement .edition := none _ rfl
theorem amend :
    Statement .amend := none _ rfl
theorem editionEnd :
    Statement .editionEnd := none _ rfl
theorem divert :
    Statement .divert := none _ rfl
theorem requestTally :
    Statement .requestTally := none _ rfl
theorem requestStatus :
    Statement .requestStatus := none _ rfl
theorem offerWindowExpiry (stand : Nat) :
    Statement (.offerWindowExpiry stand) := fun h => one (stand_le h)
theorem shipWaitExpiry (stand : Nat) :
    Statement (.shipWaitExpiry stand) := fun h => one (stand_le h)
theorem retryExpiry (stand : Nat) :
    Statement (.retryExpiry stand) := fun h => one (stand_le h)
theorem callerLandingExpiry (link : Nat) :
    Statement (.callerLandingExpiry link) := fun h => one (link_le h)
theorem holdExpiry (caller : Nat) (callNo : Nat) :
    Statement (.holdExpiry caller callNo) := fun h =>
  two (node_le (and_true h).1) (of_decide_eq_true (and_true h).2)
theorem comingRepeat (link : Nat) :
    Statement (.comingRepeat link) := fun h => one (link_le h)
theorem acceptWaitExpiry (link : Nat) :
    Statement (.acceptWaitExpiry link) := fun h => one (link_le h)
theorem conveyorClearExpiry (link : Nat) :
    Statement (.conveyorClearExpiry link) := fun h => one (link_le h)
theorem giverLandingExpiry (link : Nat) :
    Statement (.giverLandingExpiry link) := fun h => one (link_le h)
theorem fieldAnswer (modNo : Nat) (inputs : List PointInput) :
    Statement (.fieldAnswer modNo inputs) := fun h n hn => by
  obtain ⟨hm, hi⟩ := and_true h
  rcases List.mem_cons.1 hn with rfl | hn
  · exact module_le (and_true hm).1
  · obtain ⟨i, hmem, hn⟩ := List.mem_flatMap.1 hn
    exact input (List.all_eq_true.1 hi i hmem) n hn
theorem missedScan (modNo : Nat) :
    Statement (.missedScan modNo) := fun h => one (module_le h)
theorem moduleLost (modNo : Nat) :
    Statement (.moduleLost modNo) := fun h => one (module_le h)
theorem occupancyChange (sec : Nat) (present : Bool) :
    Statement (.occupancyChange sec present) := fun h => one (section_le h)
theorem sectionTagRead (sec : Nat) (cart : Nat) (manual : Bool) (loaded : Bool) :
    Statement (.sectionTagRead sec cart manual loaded) := fun h => two (section_le (and_true h).1) (tagCart_le (and_true h).2)
theorem stopTagRead (stop : Nat) (cart : Nat) (manual : Bool) (loaded : Bool) :
    Statement (.stopTagRead stop cart manual loaded) := fun h => two (stop_le (and_true h).1) (tagCart_le (and_true h).2)
theorem stopTagGone (stop : Nat) (cart : Nat) :
    Statement (.stopTagGone stop cart) := fun h => two (stop_le (and_true h).1) (tagCart_le (and_true h).2)
theorem startWaitExpiry (cart : Nat) :
    Statement (.startWaitExpiry cart) := fun h => one (cart_le h)
theorem transitExpiry (cart : Nat) :
    Statement (.transitExpiry cart) := fun h => one (cart_le h)
theorem transferTimeout (cart : Nat) :
    Statement (.transferTimeout cart) := fun h => one (cart_le h)
theorem rollSensorChange (stop : Nat) (present : Bool) :
    Statement (.rollSensorChange stop present) := fun h => one (stop_le h)
theorem readyConfirm (stand : Nat) (arm : Arm) :
    Statement (.readyConfirm stand arm) := fun h => one (stand_le h)
theorem spliceNow (stand : Nat) :
    Statement (.spliceNow stand) := fun h => one (stand_le h)
theorem armLoadedChange (stand : Nat) (arm : Arm) (present : Bool) :
    Statement (.armLoadedChange stand arm present) := fun h => one (stand_le h)
theorem webPresentChange (stand : Nat) (present : Bool) :
    Statement (.webPresentChange stand present) := fun h => one (stand_le h)
theorem prepConfirm (stop : Nat) :
    Statement (.prepConfirm stop) := fun h => one (stop_le h)
theorem prepReject (stop : Nat) :
    Statement (.prepReject stop) := fun h => one (stop_le h)
theorem webPulse (stand : Nat) :
    Statement (.webPulse stand) := fun h => one (stand_le h)
theorem knife (stand : Nat) :
    Statement (.knife stand) := fun h => one (stand_le h)
theorem verifyPassed (stand : Nat) :
    Statement (.verifyPassed stand) := fun h => one (stand_le h)
theorem revolutionPulse (stand : Nat) (arm : Arm) :
    Statement (.revolutionPulse stand arm) := fun h => one (stand_le h)
theorem standbyPulse (stand : Nat) (arm : Arm) :
    Statement (.standbyPulse stand arm) := fun h => one (stand_le h)
theorem enterMatched (stand : Nat) :
    Statement (.enterMatched stand) := fun h => one (stand_le h)
theorem paste (stand : Nat) :
    Statement (.paste stand) := fun h => one (stand_le h)
theorem outputPulseEnd (stand : Nat) (output : PulsedOutput) :
    Statement (.outputPulseEnd stand output) := fun h => one (stand_le h)
theorem copyPulse :
    Statement .copyPulse := none _ rfl
theorem trimWindowEnd (stand : Nat) :
    Statement (.trimWindowEnd stand) := fun h => one (stand_le h)
theorem pressRunRise :
    Statement .pressRunRise := none _ rfl
theorem pressRunFall :
    Statement .pressRunFall := none _ rfl
theorem speedWindow :
    Statement .speedWindow := none _ rfl
theorem pulseLost (stand : Nat) :
    Statement (.pulseLost stand) := fun h => one (stand_le h)
theorem decelStopped (stand : Nat) :
    Statement (.decelStopped stand) := fun h => one (stand_le h)
theorem buttStopped (stand : Nat) (arm : Arm) :
    Statement (.buttStopped stand arm) := fun h => one (stand_le h)

end Sys2Proof.Laws.OneByte
end

