-- ==== Sys2Proof/Laws/State.lean ====
section
/-! SUPPORT. One lemma per field per update of the state: what each named update leaves and what it makes of the rest. -/
namespace Sys2Proof.Machine

/-! ### Updates of the plant -/

section
variable (p : Plant)

@[simp] theorem Plant.modStop_clock (n : Nat) (f : Stop → Stop) : (p.modStop n f).clock = p.clock := rfl
@[simp] theorem Plant.modStop_pressRun (n : Nat) (f : Stop → Stop) : (p.modStop n f).pressRun = p.pressRun := rfl
@[simp] theorem Plant.modStop_loader (n : Nat) (f : Stop → Stop) : (p.modStop n f).loader = p.loader := rfl
@[simp] theorem Plant.modStop_bus (n : Nat) (f : Stop → Stop) : (p.modStop n f).bus = p.bus := rfl
@[simp] theorem Plant.modStop_rolls (n : Nat) (f : Stop → Stop) : (p.modStop n f).rolls = p.rolls := rfl
@[simp] theorem Plant.modStop_supply (n : Nat) (f : Stop → Stop) : (p.modStop n f).supply = p.supply := rfl
@[simp] theorem Plant.modStop_traffic (n : Nat) (f : Stop → Stop) :
    (p.modStop n f).traffic = { p.traffic with stops := updateIf (·.num == n) f p.traffic.stops } := rfl
@[simp] theorem Plant.modStop_sched (n : Nat) (f : Stop → Stop) : (p.modStop n f).sched = p.sched := rfl
@[simp] theorem Plant.modStop_splice (n : Nat) (f : Stop → Stop) : (p.modStop n f).splice = p.splice := rfl
@[simp] theorem Plant.modStop_modules (n : Nat) (f : Stop → Stop) : (p.modStop n f).modules = p.modules := rfl
@[simp] theorem Plant.modStop_polled (n : Nat) (f : Stop → Stop) : (p.modStop n f).polled = p.polled := rfl

@[simp] theorem Plant.modCart_clock (n : Nat) (f : Cart → Cart) : (p.modCart n f).clock = p.clock := rfl
@[simp] theorem Plant.modCart_pressRun (n : Nat) (f : Cart → Cart) : (p.modCart n f).pressRun = p.pressRun := rfl
@[simp] theorem Plant.modCart_loader (n : Nat) (f : Cart → Cart) : (p.modCart n f).loader = p.loader := rfl
@[simp] theorem Plant.modCart_bus (n : Nat) (f : Cart → Cart) : (p.modCart n f).bus = p.bus := rfl
@[simp] theorem Plant.modCart_rolls (n : Nat) (f : Cart → Cart) : (p.modCart n f).rolls = p.rolls := rfl
@[simp] theorem Plant.modCart_supply (n : Nat) (f : Cart → Cart) : (p.modCart n f).supply = p.supply := rfl
@[simp] theorem Plant.modCart_traffic (n : Nat) (f : Cart → Cart) :
    (p.modCart n f).traffic = { p.traffic with carts := updateIf (·.num == n) f p.traffic.carts } := rfl
@[simp] theorem Plant.modCart_sched (n : Nat) (f : Cart → Cart) : (p.modCart n f).sched = p.sched := rfl
@[simp] theorem Plant.modCart_splice (n : Nat) (f : Cart → Cart) : (p.modCart n f).splice = p.splice := rfl
@[simp] theorem Plant.modCart_modules (n : Nat) (f : Cart → Cart) : (p.modCart n f).modules = p.modules := rfl
@[simp] theorem Plant.modCart_polled (n : Nat) (f : Cart → Cart) : (p.modCart n f).polled = p.polled := rfl

@[simp] theorem Plant.modSection_clock (n : Nat) (f : Section → Section) : (p.modSection n f).clock = p.clock := rfl
@[simp] theorem Plant.modSection_pressRun (n : Nat) (f : Section → Section) : (p.modSection n f).pressRun = p.pressRun := rfl
@[simp] theorem Plant.modSection_loader (n : Nat) (f : Section → Section) : (p.modSection n f).loader = p.loader := rfl
@[simp] theorem Plant.modSection_bus (n : Nat) (f : Section → Section) : (p.modSection n f).bus = p.bus := rfl
@[simp] theorem Plant.modSection_rolls (n : Nat) (f : Section → Section) : (p.modSection n f).rolls = p.rolls := rfl
@[simp] theorem Plant.modSection_supply (n : Nat) (f : Section → Section) : (p.modSection n f).supply = p.supply := rfl
@[simp] theorem Plant.modSection_traffic (n : Nat) (f : Section → Section) :
    (p.modSection n f).traffic = { p.traffic with sections := updateIf (·.num == n) f p.traffic.sections } := rfl
@[simp] theorem Plant.modSection_sched (n : Nat) (f : Section → Section) : (p.modSection n f).sched = p.sched := rfl
@[simp] theorem Plant.modSection_splice (n : Nat) (f : Section → Section) : (p.modSection n f).splice = p.splice := rfl
@[simp] theorem Plant.modSection_modules (n : Nat) (f : Section → Section) : (p.modSection n f).modules = p.modules := rfl
@[simp] theorem Plant.modSection_polled (n : Nat) (f : Section → Section) : (p.modSection n f).polled = p.polled := rfl

@[simp] theorem Plant.modTask_clock (n : Nat) (f : Task → Task) : (p.modTask n f).clock = p.clock := rfl
@[simp] theorem Plant.modTask_pressRun (n : Nat) (f : Task → Task) : (p.modTask n f).pressRun = p.pressRun := rfl
@[simp] theorem Plant.modTask_loader (n : Nat) (f : Task → Task) : (p.modTask n f).loader = p.loader := rfl
@[simp] theorem Plant.modTask_bus (n : Nat) (f : Task → Task) : (p.modTask n f).bus = p.bus := rfl
@[simp] theorem Plant.modTask_rolls (n : Nat) (f : Task → Task) : (p.modTask n f).rolls = p.rolls := rfl
@[simp] theorem Plant.modTask_supply (n : Nat) (f : Task → Task) : (p.modTask n f).supply = p.supply := rfl
@[simp] theorem Plant.modTask_traffic (n : Nat) (f : Task → Task) : (p.modTask n f).traffic = p.traffic := rfl
@[simp] theorem Plant.modTask_sched (n : Nat) (f : Task → Task) :
    (p.modTask n f).sched = { p.sched with queue := updateIf (·.num == n) f p.sched.queue } := rfl
@[simp] theorem Plant.modTask_splice (n : Nat) (f : Task → Task) : (p.modTask n f).splice = p.splice := rfl
@[simp] theorem Plant.modTask_modules (n : Nat) (f : Task → Task) : (p.modTask n f).modules = p.modules := rfl
@[simp] theorem Plant.modTask_polled (n : Nat) (f : Task → Task) : (p.modTask n f).polled = p.polled := rfl

@[simp] theorem Plant.modStand_clock (n : Nat) (f : Stand → Stand) : (p.modStand n f).clock = p.clock := rfl
@[simp] theorem Plant.modStand_pressRun (n : Nat) (f : Stand → Stand) : (p.modStand n f).pressRun = p.pressRun := rfl
@[simp] theorem Plant.modStand_loader (n : Nat) (f : Stand → Stand) : (p.modStand n f).loader = p.loader := rfl
@[simp] theorem Plant.modStand_bus (n : Nat) (f : Stand → Stand) : (p.modStand n f).bus = p.bus := rfl
@[simp] theorem Plant.modStand_rolls (n : Nat) (f : Stand → Stand) : (p.modStand n f).rolls = p.rolls := rfl
@[simp] theorem Plant.modStand_supply (n : Nat) (f : Stand → Stand) : (p.modStand n f).supply = p.supply := rfl
@[simp] theorem Plant.modStand_traffic (n : Nat) (f : Stand → Stand) : (p.modStand n f).traffic = p.traffic := rfl
@[simp] theorem Plant.modStand_sched (n : Nat) (f : Stand → Stand) : (p.modStand n f).sched = p.sched := rfl
@[simp] theorem Plant.modStand_splice (n : Nat) (f : Stand → Stand) :
    (p.modStand n f).splice = { p.splice with stands := updateIf (·.num == n) f p.splice.stands } := rfl
@[simp] theorem Plant.modStand_modules (n : Nat) (f : Stand → Stand) : (p.modStand n f).modules = p.modules := rfl
@[simp] theorem Plant.modStand_polled (n : Nat) (f : Stand → Stand) : (p.modStand n f).polled = p.polled := rfl

@[simp] theorem Plant.modModule_clock (n : Nat) (f : ModuleRec → ModuleRec) : (p.modModule n f).clock = p.clock := rfl
@[simp] theorem Plant.modModule_pressRun (n : Nat) (f : ModuleRec → ModuleRec) : (p.modModule n f).pressRun = p.pressRun := rfl
@[simp] theorem Plant.modModule_loader (n : Nat) (f : ModuleRec → ModuleRec) : (p.modModule n f).loader = p.loader := rfl
@[simp] theorem Plant.modModule_bus (n : Nat) (f : ModuleRec → ModuleRec) : (p.modModule n f).bus = p.bus := rfl
@[simp] theorem Plant.modModule_rolls (n : Nat) (f : ModuleRec → ModuleRec) : (p.modModule n f).rolls = p.rolls := rfl
@[simp] theorem Plant.modModule_supply (n : Nat) (f : ModuleRec → ModuleRec) : (p.modModule n f).supply = p.supply := rfl
@[simp] theorem Plant.modModule_traffic (n : Nat) (f : ModuleRec → ModuleRec) : (p.modModule n f).traffic = p.traffic := rfl
@[simp] theorem Plant.modModule_sched (n : Nat) (f : ModuleRec → ModuleRec) : (p.modModule n f).sched = p.sched := rfl
@[simp] theorem Plant.modModule_splice (n : Nat) (f : ModuleRec → ModuleRec) : (p.modModule n f).splice = p.splice := rfl
@[simp] theorem Plant.modModule_modules (n : Nat) (f : ModuleRec → ModuleRec) :
    (p.modModule n f).modules = updateIf (·.num == n) f p.modules := rfl
@[simp] theorem Plant.modModule_polled (n : Nat) (f : ModuleRec → ModuleRec) : (p.modModule n f).polled = p.polled := rfl

@[simp] theorem Plant.modLink_clock (n : Nat) (f : LinkRec → LinkRec) : (p.modLink n f).clock = p.clock := rfl
@[simp] theorem Plant.modLink_pressRun (n : Nat) (f : LinkRec → LinkRec) : (p.modLink n f).pressRun = p.pressRun := rfl
@[simp] theorem Plant.modLink_loader (n : Nat) (f : LinkRec → LinkRec) : (p.modLink n f).loader = p.loader := rfl
@[simp] theorem Plant.modLink_bus (n : Nat) (f : LinkRec → LinkRec) : (p.modLink n f).bus = p.bus := rfl
@[simp] theorem Plant.modLink_rolls (n : Nat) (f : LinkRec → LinkRec) : (p.modLink n f).rolls = p.rolls := rfl
@[simp] theorem Plant.modLink_supply (n : Nat) (f : LinkRec → LinkRec) :
    (p.modLink n f).supply = { p.supply with links := updateIf (·.num == n) f p.supply.links } := rfl
@[simp] theorem Plant.modLink_traffic (n : Nat) (f : LinkRec → LinkRec) : (p.modLink n f).traffic = p.traffic := rfl
@[simp] theorem Plant.modLink_sched (n : Nat) (f : LinkRec → LinkRec) : (p.modLink n f).sched = p.sched := rfl
@[simp] theorem Plant.modLink_splice (n : Nat) (f : LinkRec → LinkRec) : (p.modLink n f).splice = p.splice := rfl
@[simp] theorem Plant.modLink_modules (n : Nat) (f : LinkRec → LinkRec) : (p.modLink n f).modules = p.modules := rfl
@[simp] theorem Plant.modLink_polled (n : Nat) (f : LinkRec → LinkRec) : (p.modLink n f).polled = p.polled := rfl

@[simp] theorem Plant.modCall_clock (n : Nat) (f : Call → Call) : (p.modCall n f).clock = p.clock := rfl
@[simp] theorem Plant.modCall_pressRun (n : Nat) (f : Call → Call) : (p.modCall n f).pressRun = p.pressRun := rfl
@[simp] theorem Plant.modCall_loader (n : Nat) (f : Call → Call) : (p.modCall n f).loader = p.loader := rfl
@[simp] theorem Plant.modCall_bus (n : Nat) (f : Call → Call) : (p.modCall n f).bus = p.bus := rfl
@[simp] theorem Plant.modCall_rolls (n : Nat) (f : Call → Call) : (p.modCall n f).rolls = p.rolls := rfl
@[simp] theorem Plant.modCall_supply (n : Nat) (f : Call → Call) :
    (p.modCall n f).supply = { p.supply with calls := updateIf (·.stand == n) f p.supply.calls } := rfl
@[simp] theorem Plant.modCall_traffic (n : Nat) (f : Call → Call) : (p.modCall n f).traffic = p.traffic := rfl
@[simp] theorem Plant.modCall_sched (n : Nat) (f : Call → Call) : (p.modCall n f).sched = p.sched := rfl
@[simp] theorem Plant.modCall_splice (n : Nat) (f : Call → Call) : (p.modCall n f).splice = p.splice := rfl
@[simp] theorem Plant.modCall_modules (n : Nat) (f : Call → Call) : (p.modCall n f).modules = p.modules := rfl
@[simp] theorem Plant.modCall_polled (n : Nat) (f : Call → Call) : (p.modCall n f).polled = p.polled := rfl

@[simp] theorem Plant.freeCall_clock (n : Nat) : (p.freeCall n).clock = p.clock := rfl
@[simp] theorem Plant.freeCall_pressRun (n : Nat) : (p.freeCall n).pressRun = p.pressRun := rfl
@[simp] theorem Plant.freeCall_loader (n : Nat) : (p.freeCall n).loader = p.loader := rfl
@[simp] theorem Plant.freeCall_bus (n : Nat) : (p.freeCall n).bus = p.bus := rfl
@[simp] theorem Plant.freeCall_rolls (n : Nat) : (p.freeCall n).rolls = p.rolls := rfl
@[simp] theorem Plant.freeCall_supply (n : Nat) :
    (p.freeCall n).supply = { p.supply with calls := p.supply.calls.filter (·.stand != n) } := rfl
@[simp] theorem Plant.freeCall_traffic (n : Nat) : (p.freeCall n).traffic = p.traffic := rfl
@[simp] theorem Plant.freeCall_sched (n : Nat) : (p.freeCall n).sched = p.sched := rfl
@[simp] theorem Plant.freeCall_splice (n : Nat) : (p.freeCall n).splice = p.splice := rfl
@[simp] theorem Plant.freeCall_modules (n : Nat) : (p.freeCall n).modules = p.modules := rfl
@[simp] theorem Plant.freeCall_polled (n : Nat) : (p.freeCall n).polled = p.polled := rfl

@[simp] theorem Plant.dropHolds_clock (f : Hold → Bool) : (p.dropHolds f).clock = p.clock := rfl
@[simp] theorem Plant.dropHolds_pressRun (f : Hold → Bool) : (p.dropHolds f).pressRun = p.pressRun := rfl
@[simp] theorem Plant.dropHolds_loader (f : Hold → Bool) : (p.dropHolds f).loader = p.loader := rfl
@[simp] theorem Plant.dropHolds_bus (f : Hold → Bool) : (p.dropHolds f).bus = p.bus := rfl
@[simp] theorem Plant.dropHolds_rolls (f : Hold → Bool) : (p.dropHolds f).rolls = p.rolls := rfl
@[simp] theorem Plant.dropHolds_supply (f : Hold → Bool) :
    (p.dropHolds f).supply = { p.supply with holds := p.supply.holds.filter fun h => !f h } := rfl
@[simp] theorem Plant.dropHolds_traffic (f : Hold → Bool) : (p.dropHolds f).traffic = p.traffic := rfl
@[simp] theorem Plant.dropHolds_sched (f : Hold → Bool) : (p.dropHolds f).sched = p.sched := rfl
@[simp] theorem Plant.dropHolds_splice (f : Hold → Bool) : (p.dropHolds f).splice = p.splice := rfl
@[simp] theorem Plant.dropHolds_modules (f : Hold → Bool) : (p.dropHolds f).modules = p.modules := rfl
@[simp] theorem Plant.dropHolds_polled (f : Hold → Bool) : (p.dropHolds f).polled = p.polled := rfl

@[simp] theorem Plant.modBus_clock (f : BusPort → BusPort) : (p.modBus f).clock = p.clock := rfl
@[simp] theorem Plant.modBus_pressRun (f : BusPort → BusPort) : (p.modBus f).pressRun = p.pressRun := rfl
@[simp] theorem Plant.modBus_loader (f : BusPort → BusPort) : (p.modBus f).loader = p.loader := rfl
@[simp] theorem Plant.modBus_bus (f : BusPort → BusPort) :
    (p.modBus f).bus = f p.bus := rfl
@[simp] theorem Plant.modBus_rolls (f : BusPort → BusPort) : (p.modBus f).rolls = p.rolls := rfl
@[simp] theorem Plant.modBus_supply (f : BusPort → BusPort) : (p.modBus f).supply = p.supply := rfl
@[simp] theorem Plant.modBus_traffic (f : BusPort → BusPort) : (p.modBus f).traffic = p.traffic := rfl
@[simp] theorem Plant.modBus_sched (f : BusPort → BusPort) : (p.modBus f).sched = p.sched := rfl
@[simp] theorem Plant.modBus_splice (f : BusPort → BusPort) : (p.modBus f).splice = p.splice := rfl
@[simp] theorem Plant.modBus_modules (f : BusPort → BusPort) : (p.modBus f).modules = p.modules := rfl
@[simp] theorem Plant.modBus_polled (f : BusPort → BusPort) : (p.modBus f).polled = p.polled := rfl

@[simp] theorem Plant.send_clock (d : Nat) (m : Msg) : (p.send d m).clock = p.clock := rfl
@[simp] theorem Plant.send_pressRun (d : Nat) (m : Msg) : (p.send d m).pressRun = p.pressRun := rfl
@[simp] theorem Plant.send_loader (d : Nat) (m : Msg) : (p.send d m).loader = p.loader := rfl
@[simp] theorem Plant.send_bus (d : Nat) (m : Msg) :
    (p.send d m).bus = p.bus.send d m := rfl
@[simp] theorem Plant.send_rolls (d : Nat) (m : Msg) : (p.send d m).rolls = p.rolls := rfl
@[simp] theorem Plant.send_supply (d : Nat) (m : Msg) : (p.send d m).supply = p.supply := rfl
@[simp] theorem Plant.send_traffic (d : Nat) (m : Msg) : (p.send d m).traffic = p.traffic := rfl
@[simp] theorem Plant.send_sched (d : Nat) (m : Msg) : (p.send d m).sched = p.sched := rfl
@[simp] theorem Plant.send_splice (d : Nat) (m : Msg) : (p.send d m).splice = p.splice := rfl
@[simp] theorem Plant.send_modules (d : Nat) (m : Msg) : (p.send d m).modules = p.modules := rfl
@[simp] theorem Plant.send_polled (d : Nat) (m : Msg) : (p.send d m).polled = p.polled := rfl

@[simp] theorem Plant.event_clock (e : Event) : (p.event e).clock = p.clock := rfl
@[simp] theorem Plant.event_pressRun (e : Event) : (p.event e).pressRun = p.pressRun := rfl
@[simp] theorem Plant.event_loader (e : Event) : (p.event e).loader = p.loader := rfl
@[simp] theorem Plant.event_bus (e : Event) :
    (p.event e).bus = p.bus.sendEvent e := rfl
@[simp] theorem Plant.event_rolls (e : Event) : (p.event e).rolls = p.rolls := rfl
@[simp] theorem Plant.event_supply (e : Event) : (p.event e).supply = p.supply := rfl
@[simp] theorem Plant.event_traffic (e : Event) : (p.event e).traffic = p.traffic := rfl
@[simp] theorem Plant.event_sched (e : Event) : (p.event e).sched = p.sched := rfl
@[simp] theorem Plant.event_splice (e : Event) : (p.event e).splice = p.splice := rfl
@[simp] theorem Plant.event_modules (e : Event) : (p.event e).modules = p.modules := rfl
@[simp] theorem Plant.event_polled (e : Event) : (p.event e).polled = p.polled := rfl

@[simp] theorem Plant.modRoll_clock (h : Handle) (f : Roll → Roll) : (p.modRoll h f).clock = p.clock := rfl
@[simp] theorem Plant.modRoll_pressRun (h : Handle) (f : Roll → Roll) : (p.modRoll h f).pressRun = p.pressRun := rfl
@[simp] theorem Plant.modRoll_loader (h : Handle) (f : Roll → Roll) : (p.modRoll h f).loader = p.loader := rfl
@[simp] theorem Plant.modRoll_bus (h : Handle) (f : Roll → Roll) : (p.modRoll h f).bus = p.bus := rfl
@[simp] theorem Plant.modRoll_rolls (h : Handle) (f : Roll → Roll) :
    (p.modRoll h f).rolls = p.rolls.modify h.idx fun s => if s.gen = h.gen then { s with roll := s.roll.map f } else s := rfl
@[simp] theorem Plant.modRoll_supply (h : Handle) (f : Roll → Roll) : (p.modRoll h f).supply = p.supply := rfl
@[simp] theorem Plant.modRoll_traffic (h : Handle) (f : Roll → Roll) : (p.modRoll h f).traffic = p.traffic := rfl
@[simp] theorem Plant.modRoll_sched (h : Handle) (f : Roll → Roll) : (p.modRoll h f).sched = p.sched := rfl
@[simp] theorem Plant.modRoll_splice (h : Handle) (f : Roll → Roll) : (p.modRoll h f).splice = p.splice := rfl
@[simp] theorem Plant.modRoll_modules (h : Handle) (f : Roll → Roll) : (p.modRoll h f).modules = p.modules := rfl
@[simp] theorem Plant.modRoll_polled (h : Handle) (f : Roll → Roll) : (p.modRoll h f).polled = p.polled := rfl

@[simp] theorem Plant.freeRoll_clock (h : Handle) : (p.freeRoll h).clock = p.clock := rfl
@[simp] theorem Plant.freeRoll_pressRun (h : Handle) : (p.freeRoll h).pressRun = p.pressRun := rfl
@[simp] theorem Plant.freeRoll_loader (h : Handle) : (p.freeRoll h).loader = p.loader := rfl
@[simp] theorem Plant.freeRoll_bus (h : Handle) : (p.freeRoll h).bus = p.bus := rfl
@[simp] theorem Plant.freeRoll_rolls (h : Handle) :
    (p.freeRoll h).rolls = p.rolls.modify h.idx fun s =>
      if s.gen = h.gen && s.roll.isSome then { gen := wrapSucc 255 s.gen, roll := none } else s := rfl
@[simp] theorem Plant.freeRoll_supply (h : Handle) : (p.freeRoll h).supply = p.supply := rfl
@[simp] theorem Plant.freeRoll_traffic (h : Handle) : (p.freeRoll h).traffic = p.traffic := rfl
@[simp] theorem Plant.freeRoll_sched (h : Handle) : (p.freeRoll h).sched = p.sched := rfl
@[simp] theorem Plant.freeRoll_splice (h : Handle) : (p.freeRoll h).splice = p.splice := rfl
@[simp] theorem Plant.freeRoll_modules (h : Handle) : (p.freeRoll h).modules = p.modules := rfl
@[simp] theorem Plant.freeRoll_polled (h : Handle) : (p.freeRoll h).polled = p.polled := rfl

end

/-! ### Updates of the node -/

section
variable (s : State)

@[simp] theorem State.modPlant_plant (f : Plant → Plant) :
    (s.modPlant f).plant = f s.plant := rfl
@[simp] theorem State.modPlant_press (f : Plant → Plant) :
    (s.modPlant f).press = s.press := rfl
@[simp] theorem State.modPlant_pending (f : Plant → Plant) :
    (s.modPlant f).pending = s.pending := rfl

@[simp] theorem State.modStand_plant (n : Nat) (f : Stand → Stand) :
    (s.modStand n f).plant = s.plant.modStand n f := rfl
@[simp] theorem State.modStand_press (n : Nat) (f : Stand → Stand) :
    (s.modStand n f).press = s.press := rfl
@[simp] theorem State.modStand_pending (n : Nat) (f : Stand → Stand) :
    (s.modStand n f).pending = s.pending := rfl

@[simp] theorem State.modArm_plant (n : Nat) (m : Arm) (f : ArmRec → ArmRec) :
    (s.modArm n m f).plant = s.plant.modArm n m f := rfl
@[simp] theorem State.modArm_press (n : Nat) (m : Arm) (f : ArmRec → ArmRec) :
    (s.modArm n m f).press = s.press := rfl
@[simp] theorem State.modArm_pending (n : Nat) (m : Arm) (f : ArmRec → ArmRec) :
    (s.modArm n m f).pending = s.pending := rfl

@[simp] theorem State.event_plant (e : Event) :
    (s.event e).plant = s.plant.event e := rfl
@[simp] theorem State.event_press (e : Event) :
    (s.event e).press = s.press := rfl
@[simp] theorem State.event_pending (e : Event) :
    (s.event e).pending = s.pending := rfl

@[simp] theorem State.modPress_plant (f : Press → Press) :
    (s.modPress f).plant = s.plant := rfl
@[simp] theorem State.modPress_press (f : Press → Press) :
    (s.modPress f).press = f s.press := rfl
@[simp] theorem State.modPress_pending (f : Press → Press) :
    (s.modPress f).pending = s.pending := rfl

@[simp] theorem State.modWeb_plant (n : Nat) (f : WebStand → WebStand) :
    (s.modWeb n f).plant = s.plant := rfl
@[simp] theorem State.modWeb_press (n : Nat) (f : WebStand → WebStand) :
    (s.modWeb n f).press = { s.press with web := { s.press.web with stands := updateIf (·.num == n) f s.press.web.stands } } := rfl
@[simp] theorem State.modWeb_pending (n : Nat) (f : WebStand → WebStand) :
    (s.modWeb n f).pending = s.pending := rfl

@[simp] theorem State.modWasteStand_plant (n : Nat) (f : WasteStand → WasteStand) :
    (s.modWasteStand n f).plant = s.plant := rfl
@[simp] theorem State.modWasteStand_press (n : Nat) (f : WasteStand → WasteStand) :
    (s.modWasteStand n f).press = { s.press with waste := { s.press.waste with stands := updateIf (·.num == n) f s.press.waste.stands } } := rfl
@[simp] theorem State.modWasteStand_pending (n : Nat) (f : WasteStand → WasteStand) :
    (s.modWasteStand n f).pending = s.pending := rfl

@[simp] theorem State.modWaste_plant (f : WasteUnit → WasteUnit) :
    (s.modWaste f).plant = s.plant := rfl
@[simp] theorem State.modWaste_press (f : WasteUnit → WasteUnit) :
    (s.modWaste f).press = { s.press with waste := f s.press.waste } := rfl
@[simp] theorem State.modWaste_pending (f : WasteUnit → WasteUnit) :
    (s.modWaste f).pending = s.pending := rfl

@[simp] theorem State.modEdition_plant (f : EditionCounter → EditionCounter) :
    (s.modEdition f).plant = s.plant := rfl
@[simp] theorem State.modEdition_press (f : EditionCounter → EditionCounter) :
    (s.modEdition f).press = { s.press with edition := f s.press.edition } := rfl
@[simp] theorem State.modEdition_pending (f : EditionCounter → EditionCounter) :
    (s.modEdition f).pending = s.pending := rfl

end

/-! ### Updates of an arm -/

@[simp] theorem Stand.setArm_arm (s : Stand) (m : Arm) (f : ArmRec → ArmRec) : (s.setArm m f).arm m = f (s.arm m) := by
  cases m <;> rfl
@[simp] theorem Stand.setArm_other (s : Stand) (m : Arm) (f : ArmRec → ArmRec) :
    (s.setArm m f).arm m.other = s.arm m.other := by
  cases m <;> rfl
@[simp] theorem Stand.setArm_num (s : Stand) (m : Arm) (f : ArmRec → ArmRec) : (s.setArm m f).num = s.num := by
  cases m <;> rfl
@[simp] theorem Stand.setArm_oldRoll (s : Stand) (m : Arm) (f : ArmRec → ArmRec) : (s.setArm m f).oldRoll = s.oldRoll := by
  cases m <;> rfl

/-! ### Updates of an estimator -/

@[simp] theorem Estimator.coast_coastFrom (e : Estimator) (g : RollFigures) (w : WebPos) (n : Nat) :
    (e.coast g w n).coastFrom = none := rfl

end Sys2Proof.Machine
end

