-- ==== Sys2Proof/Laws/Tables.lean ====
section
/-! SUPPORT. The tables of the node: what a changed table answers, and what the smallest entry of a list is. -/
namespace Sys2Proof.Machine

/-- Looking up a changed table by the number it was changed at. -/
theorem find_updateIf_self {α : Type} {num : α → Nat} {n : Nat} {f : α → α} (hf : ∀ x, num (f x) = num x) (l : List α) :
    (updateIf (fun x => num x == n) f l).find? (fun x => num x == n) = (l.find? fun x => num x == n).map f := by
  unfold updateIf
  rw [List.find?_map, show ((fun x => num x == n) ∘ fun x => if num x == n then f x else x) = fun x => num x == n by
    funext x; dsimp only [Function.comp]; split <;> simp [hf]]
  cases h : l.find? fun x => num x == n with
  | none => rfl
  | some x =>
    have e : num x = n := by simpa using List.find?_some h
    simp [e]

/-- Looking up a changed table by another number. -/
theorem find_updateIf_other {α : Type} {num : α → Nat} {n k : Nat} {f : α → α} (hf : ∀ x, num (f x) = num x) (hk : k ≠ n)
    (l : List α) : (updateIf (fun x => num x == n) f l).find? (fun x => num x == k) = l.find? fun x => num x == k := by
  unfold updateIf
  rw [List.find?_map, show ((fun x => num x == k) ∘ fun x => if num x == n then f x else x) = fun x => num x == k by
    funext x; dsimp only [Function.comp]; split <;> simp [hf]]
  cases h : l.find? fun x => num x == k with
  | none => rfl
  | some x =>
    have e : num x = k := by simpa using List.find?_some h
    have : num x ≠ n := fun c => hk (e.symm.trans c)
    simp [this]

theorem Plant.modStop_stop? (p : Plant) (n : Nat) (f : Stop → Stop) (hf : ∀ s, (f s).num = s.num) :
    (p.modStop n f).stop? n = (p.stop? n).map f := find_updateIf_self (num := Stop.num) hf _
theorem Plant.modStop_stop?_other (p : Plant) (n k : Nat) (f : Stop → Stop) (hf : ∀ s, (f s).num = s.num) (h : k ≠ n) :
    (p.modStop n f).stop? k = p.stop? k := find_updateIf_other (num := Stop.num) hf h _
theorem Plant.modCart_cart? (p : Plant) (n : Nat) (f : Cart → Cart) (hf : ∀ s, (f s).num = s.num) :
    (p.modCart n f).cart? n = (p.cart? n).map f := find_updateIf_self (num := Cart.num) hf _
theorem Plant.modStand_stand? (p : Plant) (n : Nat) (f : Stand → Stand) (hf : ∀ s, (f s).num = s.num) :
    (p.modStand n f).stand? n = (p.stand? n).map f := find_updateIf_self (num := Stand.num) hf _
theorem Plant.modStand_stand?_other (p : Plant) (n k : Nat) (f : Stand → Stand) (hf : ∀ s, (f s).num = s.num)
    (h : k ≠ n) : (p.modStand n f).stand? k = p.stand? k := find_updateIf_other (num := Stand.num) hf h _
theorem Plant.modLink_link? (p : Plant) (n : Nat) (f : LinkRec → LinkRec) (hf : ∀ s, (f s).num = s.num) :
    (p.modLink n f).link? n = (p.link? n).map f := find_updateIf_self (num := LinkRec.num) hf _
theorem Plant.modModule_module? (p : Plant) (n : Nat) (f : ModuleRec → ModuleRec) (hf : ∀ s, (f s).num = s.num) :
    (p.modModule n f).module? n = (p.module? n).map f := find_updateIf_self (num := ModuleRec.num) hf _

/-- The entry that `argMin` picks has no larger key than any other; the first of those with its key (R26, R33, R53). -/
theorem argMin_least {α : Type} {key : α → List Nat} {l : List α} {x : α} (h : argMin key l = some x) :
    ∀ y ∈ l, ¬ key y < key x := by
  induction l generalizing x with
  | nil => cases h
  | cons a l ih =>
    intro y hy
    unfold argMin at h
    cases hm : argMin key l with
    | none =>
      rw [hm] at h
      cases h
      cases l with
      | nil =>
        rcases List.mem_cons.1 hy with rfl | hy
        · exact List.lt_irrefl _
        · cases hy
      | cons b l =>
        unfold argMin at hm
        split at hm
        · cases hm
        · split at hm <;> cases hm
    | some z =>
      rw [hm] at h
      have least := ih hm
      dsimp only at h
      split at h
      · next lt =>
        cases h
        rcases List.mem_cons.1 hy with rfl | hy
        · exact fun k => List.lt_irrefl _ (List.lt_trans k lt)
        · exact least y hy
      · next nlt =>
        cases h
        rcases List.mem_cons.1 hy with rfl | hy
        · exact List.lt_irrefl _
        · intro k
          rcases List.le_iff_lt_or_eq.1 (List.not_lt.1 nlt) with e | e
          · exact least y hy (List.lt_trans k e)
          · exact least y hy (by rw [← e]; exact k)

end Sys2Proof.Machine
end

