-- ==== Sys2Proof/Tests/Slice0.lean ====
section
/-!
SUPPORT. Tests: the ill-formed commands that WellFormed refuses, figures that the manual works out, single commands on a small
node, and for every obligation with hypotheses a witness of them (one conjunct per clause).
-/
namespace Sys2Proof.Tests
open Sys2Proof Sys2Proof.Machine
-- One theorem at a time: side by side, the kernel evaluations take a thread's stack each.
set_option Elab.async false

/-! ### WellFormed: one ill-formed command per check -/

theorem test_wf_image : (Instr.imageRead (some (List.replicate 3 0))).wellFormed = true ∧
    (Instr.imageRead (some (List.replicate 65536 0))).wellFormed = false := by decide +kernel
theorem test_wf_line : (Instr.frameReceived (List.replicate 262 0)).wellFormed = false := by decide +kernel
theorem test_wf_stand : (Instr.offerWindowExpiry 0).wellFormed = false ∧ (Instr.webPulse 5).wellFormed = false := by decide
theorem test_wf_link : (Instr.comingRepeat 0).wellFormed = false ∧ (Instr.acceptWaitExpiry 5).wellFormed = false := by
  decide
theorem test_wf_cart : (Instr.transitExpiry 0).wellFormed = false ∧ (Instr.startWaitExpiry 5).wellFormed = false := by
  decide
theorem test_wf_tag : (Instr.sectionTagRead 1 256 false false).wellFormed = false ∧
    (Instr.stopTagGone 1 256).wellFormed = false := by decide
theorem test_wf_section : (Instr.occupancyChange 0 true).wellFormed = false ∧
    (Instr.occupancyChange 13 true).wellFormed = false := by decide
theorem test_wf_stop : (Instr.prepConfirm 0).wellFormed = false ∧ (Instr.prepReject 41).wellFormed = false := by decide
theorem test_wf_module : (Instr.missedScan 0).wellFormed = false ∧ (Instr.moduleLost 17).wellFormed = false ∧
    (Instr.fieldAnswer 1 (List.replicate 65 .nothing)).wellFormed = false ∧
    (Instr.fieldAnswer 1 [.gone 256]).wellFormed = false := by decide
theorem test_wf_hold : (Instr.holdExpiry 31 0).wellFormed = false ∧ (Instr.holdExpiry 1 256).wellFormed = false := by decide

/-! ### Figures of the manual -/

/-- R109: L_rev 3,926,991 um gives 12,500 dmm. -/
theorem test_measured_diameter : measuredDiameter 3926991 = 12500 := by decide
/-- R117, and 7.8: 17,278 m from 12,500 dmm; 1,436 m from 3,880 dmm. -/
theorem test_remaining_length : remainingLength 12500 1500 70 = 17278 ∧ remainingLength 3880 1500 70 = 1436 := by
  decide +kernel
/-- R118: 17,278 m at 12,000 mm/s is 1,439 s; below 500 mm/s there is no forecast. -/
theorem test_time_to_splice : timeToSplice (some 17278) 12000 = 1439 ∧ timeToSplice (some 17278) 499 = 65535 ∧
    timeToSplice (some 1436) 12000 = 119 := by decide
/-- R107: 3,750,000 um in a window is 15,000 mm/s, 5,000,001 um is 20,000. -/
theorem test_speed : speedOf 3750000 = 15000 ∧ speedOf 3000000 = 12000 ∧ speedOf 5000001 = 20000 := by decide
/-- R127, R128: the duties of the worked splice, 417 and 458 per mille. -/
theorem test_duties : tensionDuty 400 12500 600 = 417 ∧ speedMatchDuty 12000 12500 400 = 458 := by decide +kernel
/-- R116: a coasting window takes 5,000 dmm to 4,996. -/
theorem test_coast : isqrt (25000000 - 40 * 70 * 3750000 / 314159) = 4996 := by decide +kernel
/-- R115: T_exp of 5,000 dmm at 15,000 mm/s. -/
theorem test_expected_period : expectedPeriod 5000 15000 = 104719 := by decide
/-- R134 and 7.8: v_arm 11,999 matches 12,000, 3,569 does not. -/
theorem test_matched : matchedSpeed (314159 * 12500 / 327249) 12000 = true ∧
    matchedSpeed (314159 * 12500 / 1100000) 12000 = false := by decide +kernel
/-- R106: three pulses of K 13,054,980 add 597 um. -/
theorem test_web_pulse : WebAcc.whole (BitVec.ofNat 64 13054980 + BitVec.ofNat 64 13054980 + BitVec.ofNat 64 13054980) =
    597#48 := by decide
/-- 00_scope: a web position before the wrap has not passed one after it. -/
theorem test_passed : passed 5#48 (-5#48) = true ∧ passed (-5#48) 5#48 = false := by decide +kernel
/-- R159: the need of the worked edition, 19,096 m. -/
theorem test_need : ({ EditionCounter.reset with
    state := .running, id := some 7310, cutOff := 560, startWaste := 300, stands := [1], cur := some 1
    versions := [{ id := 11, ordered := 40000, good := 31200, state := .running },
                 { id := 12, ordered := 25000, good := 0, state := .pending }] } : EditionCounter).need 1 = some 19096 := by
  decide
/-- R53: sections passed in ring direction. -/
theorem test_ring : ringDist 8 7 3 = 4 ∧ ringDist 8 3 3 = 0 ∧ ringNext 8 8 = 1 := by decide
/-- 10 section 10.1: a frame comes back from the line; one changed bit is found. -/
theorem test_line : frameOfLine ({ kind := 18, dest := 5, src := 7, payload := [1, 0, 0, 0, 0, 9] } : Frame).line =
    some { kind := 18, dest := 5, src := 7, payload := [1, 0, 0, 0, 0, 9] } ∧
    frameOfLine (({ kind := 18, dest := 5, src := 7, payload := [1] } : Frame).line.set 4 3) = none := by decide +kernel
/-- 10 section 10.1: most significant byte first. -/
theorem test_bytes : u24 66051 = [1, 2, 3] ∧ natOf [1, 2, 3] = 66051 := by decide

/-! ### A small LINE node: one stand, four sections, nine stops, one cart, one link -/

def grade : GradeCfg := { caliper := 70, ds := 1500, minReturn := 300, tension := 400, lane := 1 }
def standCfg : StandCfg :=
  { num := 1, standStop := 3, prepStop := 2, modNo := 3, callLead := 900, accelLead := 120, settleRevs := 3,
    minSpeed := 3000, runOutMargin := 60, pathLen := 48000, knifeOffset := 2000, theta := 250, actuatorDelay := 120000,
    pre := 500, post := 2500, verifyLen := 20000, k0 := 13107200, rpmMax := 400, torqueMax := 600, trimLen := 1000,
    pulseWidth := 200 }
def stopAt (n : Nat) (k : StopKind) (sec extra : Nat) : StopCfg :=
  { num := n, kind := k, sec := sec, modNo := 2, firstPoint := 7 * n - 6, extra := extra }
def img : Image :=
  { cls := 1, node := 5, core := 1000, grades := List.replicate 16 grade, stands := [standCfg]
    sections := (List.range 4).map fun i => { modNo := 1, occPoint := 3 * i + 1, tagPoint := 3 * i + 2, drivePoint := 3 * i + 3 }
    stops := [stopAt 1 .slot 1 1, stopAt 2 .prep 2 0, stopAt 3 .stand 3 1, stopAt 4 .out 2 1, stopAt 5 .inn 3 1,
      stopAt 6 .dock 4 0, stopAt 7 .scrap 4 0, stopAt 8 .park 1 1, stopAt 9 .slot 4 0]
    carts := [{ num := 1, parkStop := 8 }]
    links := [{ neighbour := 7, outStop := 4, inStop := 5, convModule := 1, convPoint := 20 }]
    modules := [{ address := 1, points := 64 }, { address := 2, points := 64 }, { address := 3, points := 8 }] }

/-- The image as the configuration memory holds it (10 section 10.6). -/
def imageBody (i : Image) : List Byte :=
  u8 1 ++ u16 272 ++ u8 i.cls ++ u8 i.node ++ u8 i.stands.length ++ u8 i.sections.length ++ u8 i.stops.length ++
    u8 i.carts.length ++ u8 i.links.length ++ u8 i.modules.length ++ u16 i.core ++ u8 0 ++
    (i.grades.flatMap fun g => u8 g.caliper ++ u16 g.ds ++ u16 g.minReturn ++ u16 g.tension ++ u8 g.lane) ++
    (i.stands.flatMap fun c => u8 c.num ++ u8 c.standStop ++ u8 c.prepStop ++ u8 c.modNo ++ u16 c.callLead ++
      u16 c.accelLead ++ u8 c.settleRevs ++ u16 c.minSpeed ++ u16 c.runOutMargin ++ u32 c.pathLen ++ u16 c.knifeOffset ++
      u16 c.theta ++ u32 c.actuatorDelay ++ u16 c.pre ++ u16 c.post ++ u32 c.verifyLen ++ u32 c.k0 ++ u16 c.rpmMax ++
      u16 c.torqueMax ++ u16 c.trimLen ++ u16 c.pulseWidth) ++
    (i.sections.flatMap fun s => u8 s.modNo ++ u8 s.occPoint ++ u8 s.tagPoint ++ u8 s.drivePoint) ++
    (i.stops.flatMap fun s => u8 s.num ++ u8 (stopKindCode s.kind) ++ u8 s.sec ++ u8 s.modNo ++ u8 s.firstPoint ++ u8 s.extra) ++
    (i.carts.flatMap fun c => u8 c.num ++ u8 c.parkStop) ++
    (i.links.flatMap fun l => u8 l.neighbour ++ u8 l.outStop ++ u8 l.inStop ++ u8 l.convModule ++ u8 l.convPoint) ++
    (i.modules.flatMap fun m => u8 m.address ++ u8 m.points)
def memory : List Byte := imageBody img ++ u16 4829

/-- The frame check is worked a part at a time. -/
theorem frameCheck_parts (k : Nat) (c d : BitVec 16) (l : List Byte) (h : (l.take k).foldl crcByte c = d) :
    l.foldl crcByte c = (l.drop k).foldl crcByte d := by
  rw [← h, ← List.foldl_append, List.take_append_drop]

/-- R183: the image is read as it was written. -/
theorem test_image : imageReadable (some memory) = some memory ∧ imageLength memory = 272 ∧ memory.take 272 = memory ∧
    imageOf memory = img := by decide +kernel
/-- The frame check worked 32 bytes at a time, with the states between. -/
def checkedBy (l : List Byte) : List (BitVec 16) → BitVec 16 → Bool
  | [], c => decide (l.foldl crcByte c = c)
  | d :: ds, c => decide ((l.take 32).foldl crcByte c = d) && checkedBy (l.drop 32) ds d
theorem foldl_of_checkedBy {l : List Byte} {ds : List (BitVec 16)} {c : BitVec 16} (h : checkedBy l ds c = true) :
    l.foldl crcByte c = ds.getLastD c := by
  induction ds generalizing l c with
  | nil => simpa [checkedBy] using h
  | cons d ds ih =>
    simp only [checkedBy, Bool.and_eq_true, decide_eq_true_eq] at h
    rw [frameCheck_parts 32 c d l h.1, ih h.2]
    cases ds <;> rfl
theorem frameCheck_of {l : List Byte} (ds : List (BitVec 16)) {n : Nat}
    (h : checkedBy l ds 0xffff#16 = true ∧ (ds.getLastD 0xffff#16).toNat = n) : frameCheck l = n := by
  rw [frameCheck, foldl_of_checkedBy h.1, h.2]
/-- R183: it passes the frame check and every check after it. -/
theorem test_image_passes : imageFault (some memory) = none := by
  have t := test_image
  have check : checkFrame memory = true := by
    unfold checkFrame
    rw [t.2.1, frameCheck_of [0xcb66, 0x1e01, 0x50ef, 0x0ed4, 0x0428, 0x00f9, 0xfc3c, 0xfd8a, 0x12dd] (n := 4829)
      (by decide +kernel)]
    decide +kernel
  unfold imageFault
  rw [t.1]
  have f : firstFault (checkFormat memory) = none := by decide +kernel
  have c : firstFault (checkCount memory) = none := by decide +kernel
  have r : firstFault (checkRange memory) = none := by decide +kernel
  have x : firstFault (checkReference memory) = none := by decide +kernel
  simp only [t.2.1, t.2.2.1, check, f, c, r, x, Bool.true_eq_false, if_false, Option.map_none]
/-- R183: READ; and FORMAT, COUNT and RANGE at the field that fails, whatever the frame check says. -/
theorem test_image_faults : imageFault (some []) = some (1, 0) ∧ firstFault (checkFormat (memory.set 0 2)) = some 0 ∧
    firstFault (checkCount (memory.set 9 5)) = some 9 ∧ firstFault (checkRange (memory.set 14 39)) = some 14 ∧
    firstFault (checkReference (memory.set 251 3)) = some 251 := by decide +kernel

def cfg : State := State.reset.fillTables img
/-- The node in RUN: number 5, the cart PARKED at stop 8. -/
def base : State := { cfg with plant := { cfg.plant with
  loader := { cfg.plant.loader with node := .run }, bus := { cfg.plant.bus with number := some 5 }
  traffic := { cfg.plant.traffic with
    stops := updateIf (fun x => x.num == 8) (fun x => { x with cart := some 1, claim := some 1 }) cfg.plant.traffic.stops
    carts := cfg.plant.traffic.carts.map fun c => { c with state := .parked, pos := some (.stop 8) } } } }
def inNode (n : NodeState) (s : State) : State := s.setNode n
def at_ (ms us : Ticks) (s : State) : State := s.modPlant fun p => { p with clock := { ms := ms, us := us, sub := 0 } }
def onBus (f : BusPort → BusPort) (s : State) : State := s.modPlant fun p => { p with bus := f p.bus }
def rx (f : Frame) (s : State) : State := onBus (fun b => { b with rx := [f] }) s
def fr (kind : Nat) (payload : List Byte) : Frame := { kind := kind, dest := 5, src := 7, payload := payload }
def entry (kind : Nat) (flying : Bool) : TxEntry := { frame := fr kind [], flying := flying }
/-- A known roll: grade 0, 1,000 mm wide, 12,500 dmm. -/
def roll (st : RollState) (loc : Loc) : Roll :=
  { unknownRoll 1000 st loc with
    num := some 9, grade := some 0, width := some 1000, diam := some 12500, dock := some 3, unknown := false }
def h0 : Handle := { idx := 0, gen := 0 }
def h1 : Handle := { idx := 1, gen := 0 }
def put (i : Nat) (r : Roll) (s : State) : State :=
  s.modPlant fun p => { p with rolls := p.rolls.set i { gen := 0, roll := some r } }
/-- A roll PLACED at a stop. -/
def rollAt (x : Nat) (s : State) : State :=
  (put 0 (roll .placed (.stop x)) s).modPlant fun p => p.modStop x fun y => { y with roll := some h0 }
def onSupply (f : Supply → Supply) (s : State) : State := s.modPlant fun p => { p with supply := f p.supply }
def onLink (f : LinkRec → LinkRec) (s : State) : State := s.modPlant fun p => p.modLink 1 f
def onStop (x : Nat) (f : Stop → Stop) (s : State) : State := s.modPlant fun p => p.modStop x f
def onCart (f : Cart → Cart) (s : State) : State := s.modPlant fun p => p.modCart 1 f
def onSection (n : Nat) (f : Section → Section) (s : State) : State := s.modPlant fun p => p.modSection n f
def onStand (f : Stand → Stand) (s : State) : State := s.modStand 1 f
def onWeb (f : WebStand → WebStand) (s : State) : State := s.modWeb 1 f

/-- No link is CARRYING the roll. -/
abbrev noneCarries (s : State) (h : Handle) : Prop := ∀ l ∈ s.plant.supply.links, l.out.roll = some h → l.out.state ≠ .carrying
/-- Link 1 alone is CARRYING the roll. -/
abbrev carriesAlone (s : State) (h : Handle) : Prop := ∃ l ∈ s.plant.supply.links,
  s.plant.link? l.num = some l ∧ l.out.state = .carrying ∧ l.out.roll = some h ∧
    ∀ z ∈ s.plant.supply.links, z.out.state = .carrying → z.out.roll = some h → z = l

theorem head_of {s : State} {r : FrameRow} {f : Frame} {rest : List Frame} (h : s.plant.bus.rx = f :: rest ∧
    r.takes f = true ∧ f.lengthFits = true ∧ s.plant.ownerTakes r f = true) : s.Head r f rest := ⟨h.1, h.2.1, h.2.2.1, h.2.2.2⟩
def firing (s : State) (k : FieldPoint) (v : PointInput) : Bool :=
  match s.plant.wiring k with
  | some (m, pt) =>
    match s.plant.module? m with
    | some r => s.plant.inRun && !r.lost && isEvent (r.input pt) v
    | none => false
  | none => false
theorem fires {s : State} {k : FieldPoint} {v : PointInput} (h : firing s k v = true) : ∃ t, s.Fires k v t := by
  unfold firing at h
  split at h
  · next m pt hw =>
    split at h
    · next r hm =>
      simp only [Bool.and_eq_true, Bool.not_eq_true'] at h
      exact ⟨_, h.1.1, m, pt, r, hw, hm, h.1.2, h.2, rfl⟩
    · cases h
  · cases h
/-- An event of the device wired to point `pt` of module `m`, and what the plant shows once its reading is noted. -/
theorem fires_showing (m pt : Nat) {s : State} {k : FieldPoint} {v : PointInput} {P : Plant → Bool}
    (hw : s.plant.wiring k = some (m, pt)) (h : firing s k v = true) (hp : P (s.plant.setInput m pt v) = true) :
    ∃ t, s.Fires k v t ∧ P t.plant = true := by
  obtain ⟨t, run, m', pt', r, hw', rest⟩ := fires h
  rw [hw] at hw'
  cases hw'
  exact ⟨t, ⟨run, m, pt, r, hw, rest⟩, rest.2.2.2 ▸ hp⟩
def pressed (s : State) (k : FieldPoint) : Bool :=
  match s.plant.wiring k with
  | some (m, _) => s.plant.inRun && !s.plant.moduleLost m
  | none => false
theorem button {s : State} {k : FieldPoint} (h : pressed s k = true) : s.Button k := by
  unfold pressed at h
  split at h
  · next m pt hw =>
    simp only [Bool.and_eq_true, Bool.not_eq_true'] at h
    exact ⟨h.1, m, pt, hw, h.2⟩
  · cases h
theorem made {p : Plant} {r : Roll} (h : (p.createRoll r).isSome = true) : ∃ k q, p.createRoll r = some (k, q) := by
  obtain ⟨x, hx⟩ := Option.isSome_iff_exists.1 h
  exact ⟨x.1, x.2, hx⟩
/-- The last reading of a device. -/
def sense (k : FieldPoint) (v : PointInput) (s : State) : State :=
  match s.plant.wiring k with
  | some (m, pt) => { s with plant := s.plant.setInput m pt v }
  | none => s

/-- A STOW of a record, waiting. -/
def task (n : Nat) (h : Handle) : Task :=
  { num := n, kind := .stow, cls := 4, roll := h, src := .stop 6, dest := none, arm := none, stand := none, link := none,
    urgency := 0, cart := none, suspensions := 0, created := 0, noSlot := false, state := .waiting, waitsFor := none }

/-! ### Witnesses: queue, reset and node states -/

theorem wit_StepRunsFrontCommand : ({ base with pending := [.copyPulse, .surveyEnd] } : State).pending =
    .copyPulse :: [.surveyEnd] := by decide
theorem wit_IdleCountsTime : base.pending = [] := by decide +kernel
theorem wit_ColdResetFromAnyState : State.reset.plant.loader.node = .reset ∧ base.plant.loader.node ≠ .reset := by
  decide +kernel
theorem wit_ImagesAreRefusedOrTaken : (inNode .loading base).plant.loader.node = .loading ∧
    imageFault (some []) = some (1, 0) ∧ imageFault (some memory) = none :=
  ⟨by decide +kernel, test_image_faults.1, test_image_passes⟩
def surveyed (x : Bool) : State := (inNode .survey base).modPlant fun p =>
  { p with modules := p.modules.map fun m => { m with answered := x } }
theorem wit_SurveyEndEntersRun :
    let on := sense (.sensor 1) (.level true) base
    let arm (n : Nat) := onStand (fun st => { st with armA := { st.armA with surveyPulses := n } })
      (sense (.armLoaded 1 .a) (.level true) base)
    let read (r : List TagRead) : State := onStop 8 (fun y => { y with cart := none, claim := none })
      (onCart (fun k => { k with surveyReads := r, pos := none, state := .idle, loadFlag := true }) base)
    let seen (r : List TagRead) : Bool := ((read r).plant.cart? 1).map
      (fun c => (c.leg, c.task, c.loadFlag, (read r).plant.surveyedAt c)) == some (none, none, true, r.head?)
    let full := sense (.occupancy 4) (.level true) base
    ((at_ 4000 0 (surveyed true)).plant.loader.node = .survey ∧
      reached (at_ 4000 0 (surveyed true)).plant.clock.ms (4000#32) = true ∧
      (∀ m ∈ (at_ 4000 0 (surveyed true)).plant.modules, m.answered = true ∨ m.lost = true)) ∧
    ((surveyed true).plant.loader.node = .survey ∧ reached (at_ 3999 0 (surveyed true)).plant.clock.ms (4000#32) = false ∧
      (∃ m ∈ (surveyed false).plant.modules, m.answered = false ∧ m.lost = false)) ∧
    (base.plant.bus.number = some 5 ∧ base.plant.bus.eventNo = 0 ∧ base.plant.bus.tx.length < 12) ∧
    (on.plant.sensor 1 = true ∧ on.plant.stopLost 1 = false ∧
      (on.plant.createRoll (unknownRoll 1000 .placed (.stop 1))).isSome = true ∧ base.plant.sensor 1 = false) ∧
    ((arm 0).plant.stand? 1 = some (Stand.reset 1) ∧ (arm 1).plant.standCfg 1 = some standCfg ∧
      (arm 0).plant.armLoaded 1 .a = true ∧ (arm 0).plant.moduleLost 3 = false ∧
      ((arm 1).plant.stand? 1).map (fun st => (st.armA.surveyPulses, st.runArm)) = some (1, none) ∧
      ((arm 1).plant.createRoll (unknownRoll 1000 .mounted (.arm 1 .a))).isSome = true) ∧
    (seen [] ∧ seen [{ pos := .stop 8, manual := false, loaded := true }] ∧
      seen [{ pos := .sec 4, manual := true, loaded := true }] ∧
      seen [{ pos := .sec 4, manual := false, loaded := true }] ∧ (read []).plant.parkStop 1 = some 8 ∧
      ((read []).plant.stop? 8).map (fun y => (y.cart, y.claim)) = some (none, none) ∧
      ((read []).plant.section? 4).map (·.state) = some .free ∧
      ((read []).plant.createRoll (unknownRoll 1000 .carried (.cart 1))).isSome = true) ∧
    ((full.plant.section? 4).map (·.state) = some .free ∧ full.plant.occupied 4 = true ∧ full.plant.moduleLost 1 = false ∧
      full.plant.someCartExpected 4 = false) ∧
    -- section 4 is on module 1, stop 8 on module 2; read at stop 8 last, and module 2 is lost
    (let two : List TagRead :=
       [{ pos := .stop 8, manual := false, loaded := true }, { pos := .sec 4, manual := true, loaded := false }]
     let halfLost (r : List TagRead) := (read r).modPlant fun p => p.modModule 2 fun m => { m with lost := true }
     let at4 (r : List TagRead) : Option TagRead := ((halfLost r).plant.cart? 1).bind (halfLost r).plant.surveyedAt
     ((halfLost two).plant.stopLost 8 = true ∧ ((halfLost two).plant.sectionCfg 4).map (·.modNo) = some 1 ∧
       (halfLost two).plant.moduleLost 1 = false ∧ at4 two = some { pos := .sec 4, manual := true, loaded := false } ∧
       at4 (two.take 1) = none)) ∧
    ((surveyed true).plant.node = .survey ∧ (surveyed true).plant.wiring (.sectionTag 4) = some (1, 11) ∧
      (surveyed true).plant.wiring (.stopTag 8) = some (2, 50) ∧ (surveyed true).plant.moduleLost 1 = false ∧
      (surveyed true).plant.moduleLost 2 = false) := by decide +kernel
/-- The same statement: a record at a DOCK stop and none, a loaded cart and an empty one, with room in the queue. -/
theorem wit_SurveyEndEntersRun_stows :
    let dock := rollAt 6 base
    let loaded := put 0 (roll .carried (.cart 1)) (onCart (fun c => { c with load := some h0 }) base)
    (dock.plant.stopKind 6 = some .dock ∧ (dock.plant.stop? 6).map (·.roll) = some (some h0) ∧
      dock.plant.roll? h0 = some (roll .placed (.stop 6)) ∧ (roll .placed (.stop 6)).claim = .none ∧
      dock.plant.sched.queue.length < 16 ∧ dock.plant.inTask h0 = false ∧
      base.plant.stopKind 6 = some .dock ∧ (base.plant.stop? 6).map (·.roll) = some none) ∧
    ((loaded.plant.cart? 1).map (·.load) = some (some h0) ∧ (loaded.plant.roll? h0).isSome = true ∧
      loaded.plant.sched.queue.length < 16 ∧ loaded.plant.inTask h0 = false ∧ (∀ t ∈ loaded.plant.sched.queue, t.noSlot = false) ∧
      (base.plant.cart? 1).map (·.load) = some none) := by decide +kernel
theorem wit_NodeStatesFollowTheirGraph : ∃ t, step { State.reset with pending := [.resetEnd] } = .next t ∧
    t.plant.loader.node = .loading := ⟨_, rfl, rfl⟩

/-! ### Witnesses: the reel bus -/

theorem wit_FrameReceivedIsKeptOrCounted : base.plant.bus.number = some 5 ∧ State.reset.plant.bus.number = none := by
  decide +kernel
theorem wit_AttemptStartsWithFirstInQueueOrder :
    let s := onBus (fun b => { b with tx := [entry 64 false, entry 16 false, entry 16 false] }) base
    s.plant.bus.number = some 5 ∧ s.plant.bus.link = .active ∧ (∀ e ∈ s.plant.bus.tx, e.flying = false) ∧
      s.plant.bus.tx ≠ [] := by decide +kernel
def failing (n : Nat) : State :=
  onBus (fun b => { b with tx := [entry 16 false, entry 17 true, entry 48 false], failures := n }) base
theorem wit_AttemptEnds : (failing 6).plant.bus.tx = [entry 16 false] ++ entry 17 true :: [entry 48 false] ∧
    (entry 17 true).flying = true ∧ (∀ x ∈ [entry 16 false] ++ [entry 48 false], x.flying = false) ∧
    (failing 6).plant.bus.failures < 7 := by decide +kernel
theorem wit_EightFailuresMakeTheLinkSilent :
    ((failing 7).plant.bus.tx = [entry 16 false] ++ entry 17 true :: [entry 48 false] ∧ (entry 17 true).flying = true ∧
      (∀ x ∈ [entry 16 false] ++ [entry 48 false], x.flying = false) ∧ (failing 7).plant.bus.failures = 7 ∧
      (failing 7).plant.bus.link = .active) ∧
    ((failing 8).plant.bus.failures = 8 ∧ (failing 8).plant.bus.link = .active) ∧
    (let s := at_ 1000 0 (onBus (fun b => { b with link := .silent, silentEnd := some 1000, failures := 8 }) base)
     s.plant.bus.link = .silent ∧ s.plant.bus.silentEnd = some 1000 ∧ reached s.plant.clock.ms 1000 = true) := by
  decide +kernel
def full (k : Nat) : BusPort := { base.plant.bus with tx := entry 48 false :: entry k false :: List.replicate 10 (entry 16 false) }
theorem wit_FullTransmitQueueLosesOneFrame :
    ((full 64).tx.length = 12 ∧ (full 64).tx = [entry 48 false] ++ entry 64 false :: List.replicate 10 (entry 16 false) ∧
      (entry 64 false).flying = false ∧ (fr 48 []).cls < (entry 64 false).frame.cls ∧
      (∀ x ∈ (full 64).tx, x.flying = false → x.frame.cls ≤ (entry 64 false).frame.cls) ∧
      (∀ x ∈ List.replicate 10 (entry 16 false), x.flying = false → x.frame.cls ≠ (entry 64 false).frame.cls)) ∧
    ((full 48).tx.length = 12 ∧ ∀ e ∈ (full 48).tx, e.flying = false → e.frame.cls ≤ (fr 48 []).cls) := by decide +kernel
theorem wit_EventsAreNumbered : ({ full 48 with tx := (full 48).tx.drop 1, eventNo := 255 } : BusPort).number = some 5 ∧
    ({ full 48 with tx := (full 48).tx.drop 1, eventNo := 255 } : BusPort).tx.length < 12 ∧ 65535 ≤ 65535 := by decide +kernel
theorem wit_UntakenFramesAreIgnored :
    let short := fr 16 [1]
    let good := fr 19 [1]
    ((rx short base).plant.bus.rx = short :: [] ∧ FrameRow.takes .call short = true ∧ short.payload.length ≠ 8) ∧
    ((rx good (inNode .halted base)).plant.bus.rx = good :: [] ∧ FrameRow.takes .close good = true ∧
      (inNode .halted base).plant.loader.node ≠ .run) ∧
    (rx good base).plant.bus.rx = good :: [] ∧ base.plant.loader.node = .run ∧ good.payload.length = 1 := by decide +kernel
theorem wit_StepsKeepTheBusPortInOrder : (failing 7).plant.bus.InOrder ∧ ∃ t, step (failing 7) = .next t :=
  ⟨by constructor <;> decide +kernel, _, rfl⟩
theorem wit_FramesReadBack : ({ kind := 255, dest := 0, src := 255, payload := List.replicate 32 255 } : Frame).Carried :=
  ⟨by decide, by decide, by decide, by decide⟩
/-- The same statement: a line that holds a frame, and lines with a length byte of 33, a bad check and a byte too few. -/
theorem wit_FramesReadBack_lines :
    let good := frameCheck [16, 5, 7, 0]
    (frameOfLine ([16, 5, 7, 0] ++ u16 good)).isSome = true ∧ good < 65536 ∧ 32 < (33 : Byte).toNat ∧ good + 1 ≠ good ∧
      good + 1 < 65536 ∧ (1 : Byte).toNat ≠ ([] : List Byte).length ∧ (0 : Byte).toNat = ([] : List Byte).length := by
  decide +kernel
/-- The image statement: images whose frame check is right and that fail FORMAT, COUNT, RANGE and REFERENCE. -/
theorem wit_ImagesAreRefusedOrTaken_checks :
    let format : List Byte := ([2, 0, 14] : List Byte) ++ List.replicate 9 0
    let count : List Byte := ([1, 0, 144, 2, 5] : List Byte) ++ List.replicate 137 0
    let range : List Byte := (memory.take 270).set 14 39
    let reference : List Byte := (memory.take 270).set 251 3
    let sealed (l : List Byte) (n : Nat) : Bool := fieldAt l 1 2 == (l ++ u16 n).length && fieldAt (l ++ u16 n) l.length 2 == n
    let counted (l : List Byte) : Bool := (fieldAt l 0 1, fieldAt l 3 1, fieldAt l 5 2, fieldAt l 7 2, fieldAt l 9 2, fieldAt l 13 1) ==
      (1, 1, 260, 2305, 259, 0)
    ((frameCheck format = 48103 ∧ sealed format 48103) ∧ fieldAt format 0 1 = 2) ∧
    ((frameCheck count = 14556 ∧ sealed count 14556) ∧ (fieldAt count 0 1 = 1 ∧ fieldAt count 3 1 = 2 ∧
      fieldAt count 13 1 = 0 ∧ fieldAt count 5 8 = 0 ∧ fieldAt count 1 2 = 142 + 2)) ∧
    ((frameCheck range = 29784 ∧ sealed range 29784) ∧ counted range ∧ fieldAt range 4 1 = 5 ∧ fieldAt range 11 2 = 1000 ∧
      fieldAt range 14 1 = 39) ∧
    ((frameCheck reference = 12028 ∧ sealed reference 12028) ∧ counted reference ∧
      firstFault (checkRange (reference ++ u16 12028)) = none ∧ firstFault (checkReference (reference ++ u16 12028)) = some 251) :=
  ⟨⟨⟨frameCheck_of [0xbbe7] (by decide +kernel), by decide +kernel⟩, by decide +kernel⟩,
    ⟨⟨frameCheck_of [0xb1d7, 0x0900, 0xb334, 0x4c04, 0x38dc] (by decide +kernel), by decide +kernel⟩, by decide +kernel⟩,
    ⟨⟨frameCheck_of [0x3517, 0xbff1, 0xc0a6, 0xad5b, 0xb774, 0x2440, 0x2740, 0x4ead, 0x7458] (by decide +kernel),
      by decide +kernel⟩, by decide +kernel⟩,
    ⟨frameCheck_of [0xcb66, 0x1e01, 0x50ef, 0x0ed4, 0x0428, 0x00f9, 0xfc3c, 0xbb24, 0x2efc] (by decide +kernel),
      by decide +kernel⟩, by decide +kernel⟩
theorem wit_StatusRequestsAreAnswered : (∃ f, (rx f base).Head .requestStatus f [] ∧ f.num 1 1 = 1 ∧ f.num 2 1 = 0) ∧
    (∃ f, (rx f base).Head .requestStatus f [] ∧ 12 < f.num 1 1) ∧
    (∃ f, (rx f (inNode .survey base)).Head .requestStatus f [] ∧ f.num 1 1 = 2) ∧
    (∃ f, (rx f (inNode .halted base)).Head .requestStatus f [] ∧ f.num 1 1 = 11) :=
  ⟨⟨fr 36 [2, 1, 0], head_of (by decide +kernel), by decide +kernel⟩, ⟨fr 36 [2, 13, 0], head_of (by decide +kernel), by decide +kernel⟩,
    ⟨fr 36 [2, 2, 1], head_of (by decide +kernel), by decide +kernel⟩, ⟨fr 36 [2, 11, 1], head_of (by decide +kernel), by decide +kernel⟩⟩

/-- The same statement: every section of a LINE node in RUN, an item that is there and one that is not. -/
theorem wit_StatusRequestsAreAnswered_sections :
    let ask (sec item : Byte) : State := rx (fr 36 [2, sec, item]) base
    (∀ sec item, (ask sec item).Head .requestStatus (fr 36 [2, sec, item]) []) ∧
    base.plant.loader.node = .run ∧ base.plant.image.cls = 1 ∧ (base.plant.stop? 3).isSome = true ∧
    base.plant.stopKind 3 = some .stand ∧ base.plant.stop? 41 = none ∧ (base.plant.cart? 1).isSome = true ∧
    base.plant.cart? 2 = none ∧ (base.plant.stand? 1).isSome = true ∧ (base.web? 1).isSome = true ∧
    base.plant.stand? 2 = none :=
  ⟨fun _ _ => ⟨rfl, rfl, rfl, rfl⟩, by decide +kernel⟩

/-! ### Witnesses: supply between nodes -/

def msg (m : Msg) : Frame := fr m.kind m.payload
def cfg7 : LinkCfg := { neighbour := 7, outStop := 4, inStop := 5, convModule := 1, convPoint := 20 }
def call (st : CallState) (best : Option Nat) : Call :=
  { num := 3, stand := 1, grade := 0, width := 1000, minLen := 1, state := st
    best := best.map fun n => { node := n, roll := 9, cost := 2, dock := some 3 }
    offerers := best.toList, expiry := 1000, link := some 1 }
/-- The clock stands at the call's expiry. -/
def calling (st : CallState) (best : Option Nat) : State :=
  at_ 1000 0 (onSupply (fun u => { u with calls := [call st best] }) base)
def hold (e : Option Ticks) : Hold := { roll := h0, caller := 7, callNo := 3, link := 1, expiry := e }
def holding (e : Option Ticks) (c : Claim) : State :=
  put 0 { roll .placed (.stop 1) with claim := c } (onSupply (fun u => { u with holds := [hold e] }) (rollAt 1 base))
def outRec (st : OutState) : Outbound :=
  { state := st, roll := some h0, caller := 7, callNo := 3, coming := some 1000, accept := some 1000, clear := some 1000,
    landing := some 1000 }
def inRec : Inbound :=
  { expecting := true, roll := some h0, giver := 7, callNo := 3, landing := some 1000, claimed := true }
def linkRec (o : Outbound) (i : Inbound) : LinkRec := { num := 1, out := o, inb := i }
def shipping (st : OutState) : State :=
  at_ 1000 0 (onLink (fun l => { l with out := outRec st })
    (put 0 { roll .shipped (.stop 4) with claim := .ship 1 } (rollAt 4 base)))

theorem wit_CallsAreAnsweredWithOneOffer :
    let f := msg (.call 3 0 1005 17278)
    let s := rx f (rollAt 1 base)
    ((rx { f with src := 8 } base).Head .call { f with src := 8 } [] ∧
      (rx { f with src := 8 } base).plant.linkTo 8 = none) ∧
    (s.Head .call f [] ∧ s.plant.linkTo f.src = some 1 ∧
      s.plant.link? 1 = some (linkRec Outbound.idle Inbound.idle) ∧ s.plant.linkCfg 1 = some cfg7 ∧
      (∀ h ∈ s.plant.supply.holds, h.link = 1 → h.expiry ≠ none) ∧ s.plant.stopEmpty 4 = true ∧
      s.plant.stopLost 4 = false ∧ (∀ h ∈ s.plant.supply.holds, h.caller = f.src → h.callNo ≠ f.callNo) ∧
      s.plant.ownCallFor (f.num 1 1) (f.num 2 2) = false ∧ s.plant.supply.holds.length < 8 ∧
      ∃ x, x ∈ s.plant.offerable f ∧ ∀ y ∈ s.plant.offerable f, y = x ∨
        [s.plant.costFrom x.stop 4, youth x.r.dock, x.stop] < [s.plant.costFrom y.stop 4, youth y.r.dock, y.stop]) ∧
    (rx f (holding none (.ship 1))).Head .call f [] ∧ (rx f (holding none (.ship 1))).plant.linkTo f.src = some 1 ∧
      ∃ h ∈ (holding none (.ship 1)).plant.supply.holds, h.link = 1 ∧ h.expiry = none := by
  intro f s
  obtain ⟨x, hx⟩ : ∃ x, s.plant.offerable f = [x] := List.length_eq_one_iff.1 (by decide +kernel)
  have only : x ∈ s.plant.offerable f ∧ ∀ y ∈ s.plant.offerable f, y = x ∨
      [s.plant.costFrom x.stop 4, youth x.r.dock, x.stop] < [s.plant.costFrom y.stop 4, youth y.r.dock, y.stop] := by
    simp [hx]
  have mine : s.Head .call f [] := head_of (by decide +kernel)
  refine ⟨⟨head_of ?_, ?_⟩, ⟨mine, ?_⟩, head_of ?_, ?_⟩
  case refine_3 =>
    iterate 9 refine ⟨by decide +kernel, ?_⟩
    exact ⟨x, only⟩
  all_goals decide +kernel
/-- The same statement: costs that pass section 1, pass none, and count on. -/
theorem wit_CallsAreAnsweredWithOneOffer_cost : base.plant.ringSize = 4 ∧ base.plant.stopSec 9 = some 4 ∧
    base.plant.stopSec 4 = some 2 ∧ base.plant.stopSec 2 = some 2 ∧ base.plant.stopSec 1 = some 1 ∧
    base.plant.costFrom 9 4 = 2 ∧ base.plant.costFrom 2 4 = 0 ∧ base.plant.costFrom 1 4 = 1 := by decide +kernel
theorem wit_OffersAreCompared :
    let f := msg (.offer 3 77 2 none)
    let s := rx f (calling .opened (some 8))
    let u := rx f (calling .opened (some 7))
    (s.Head .offer f [] ∧ s.plant.callNumbered f.callNo = some (call .opened (some 8)) ∧ s.plant.linkTo f.src ≠ none ∧
      f.src ∉ (call .opened (some 8)).offerers) ∧
    u.Head .offer f [] ∧ u.plant.callNumbered f.callNo = some (call .opened (some 7)) ∧
      f.src ∈ (call .opened (some 7)).offerers :=
  ⟨⟨head_of (by decide +kernel), by decide +kernel⟩, head_of (by decide +kernel), by decide +kernel⟩
theorem wit_OfferOrderDoesNotMatter :
    let f := msg (.offer 3 77 2 none)
    let g := { f with src := 8 }
    [f, g].Perm [g, f] ∧ ([f, g].map (·.src)).Nodup ∧ (∀ k ∈ [f, g], k.callNo = (call .opened none).num) ∧
      (calling .opened none).plant.callNumbered 3 = some (call .opened none) ∧
      ((calling .opened none).plant.supply.calls.map (·.stand)).Nodup := by decide +kernel
theorem wit_OfferWindowEnds : (calling .opened none).plant.callOf? 1 = some (call .opened none) ∧
    (calling .opened (some 7)).plant.callOf? 1 = some (call .opened (some 7)) ∧
    reached (calling .opened none).plant.clock.ms (call .opened none).expiry = true := by decide +kernel
theorem wit_ComingKeepsTheCallAlive :
    let f := msg (.shipComing 3 77)
    let s := rx f (calling .chosen (some 7))
    let u := rx f (calling .chosen (some 8))
    (s.Head .shipComing f [] ∧ s.plant.supply.calls = [call .chosen (some 7)] ∧ (call .chosen (some 7)).num = f.callNo ∧
      (call .chosen (some 7)).state = .chosen ∧ (call .chosen (some 7)).best.map (·.node) = some f.src) ∧
    u.Head .shipComing f [] ∧ u.plant.supply.calls = [call .chosen (some 8)] ∧
      (call .chosen (some 8)).best.map (·.node) ≠ some f.src :=
  ⟨⟨head_of (by decide +kernel), by decide +kernel⟩, head_of (by decide +kernel), by decide +kernel⟩
theorem wit_ChosenCallsFailAndAreFreed :
    let f := msg (.gone 3 77)
    ((rx f (calling .chosen (some 7))).Head .gone f [] ∧
      (rx f (calling .chosen (some 7))).plant.callNumbered f.callNo = some (call .chosen (some 7))) ∧
    (calling .chosen (some 7)).plant.callOf? 1 = some (call .chosen (some 7)) ∧
    (calling .failed none).plant.callOf? 1 = some (call .failed none) ∧
    reached (calling .failed none).plant.clock.ms 1000 = true :=
  ⟨⟨head_of (by decide +kernel), by decide +kernel⟩, by decide +kernel⟩
theorem wit_TakesStartShipments :
    let f := msg (.take 3 9)
    let held (s : State) (h : Hold) : Bool :=
      h.caller == f.src && h.callNo == f.callNo && ((s.plant.roll? h.roll).bind (·.num)) == some f.rollNo
    let s := rx f (holding (some 1000) (.hold 7 3))
    let u := rx f (holding none (.ship 1))
    let busy := onLink (fun l => { l with out := outRec .asking }) s
    let full := s.modPlant fun p => { p with sched := { p.sched with queue := (List.range 16).map fun n => task (n + 1) h1 } }
    ((rx f base).Head .take f [] ∧ (rx f base).plant.supply.holds.find? (held (rx f base)) = none) ∧
    (u.Head .take f [] ∧ u.plant.supply.holds.find? (held u) = some (hold none)) ∧
    (s.Head .take f [] ∧ s.plant.supply.holds.find? (held s) = some (hold (some 1000)) ∧
      (∀ o ∈ s.plant.supply.holds, o.link = 1 → o.expiry ≠ none) ∧
      s.plant.link? 1 = some (linkRec Outbound.idle Inbound.idle) ∧
      s.plant.roll? h0 = some { roll .placed (.stop 1) with claim := .hold 7 3 } ∧ s.plant.inTask h0 = false ∧
      s.plant.sched.queue.length < 16) ∧
    (busy.Head .take f [] ∧ busy.plant.supply.holds.find? (held busy) = some (hold (some 1000)) ∧
      busy.plant.link? 1 = some (linkRec (outRec .asking) Inbound.idle)) ∧
    full.Head .take f [] ∧ full.plant.supply.holds.find? (held full) = some (hold (some 1000)) ∧
      full.plant.link? 1 = some (linkRec Outbound.idle Inbound.idle) ∧ full.plant.inTask h0 = false ∧
      16 ≤ full.plant.sched.queue.length :=
  ⟨⟨head_of (by decide +kernel), by decide +kernel⟩, ⟨head_of (by decide +kernel), by decide +kernel⟩,
    ⟨head_of (by decide +kernel), by decide +kernel⟩, ⟨head_of (by decide +kernel), by decide +kernel⟩,
    head_of (by decide +kernel), by decide +kernel⟩
theorem wit_HoldsAreReleased :
    let f := fr 19 [3]
    let s := rx f (holding (some 1000) (.hold 7 3))
    let u := rx f (holding none (.ship 1))
    (s.Head .close f [] ∧
      (s.plant.supply.holds.find? fun o => o.caller == f.src && o.callNo == f.callNo) = some (hold (some 1000))) ∧
    (u.Head .close f [] ∧ ∀ o ∈ u.plant.supply.holds, o.caller = f.src → o.callNo = f.callNo → o.expiry = none) ∧
    (s.plant.supply.holds.find? fun o => o.caller == 7 && o.callNo == 3) = some (hold (some 1000)) ∧
      reached (at_ 1000 0 s).plant.clock.ms 1000 = true :=
  ⟨⟨head_of (by decide +kernel), by decide +kernel⟩, ⟨head_of (by decide +kernel), by decide +kernel⟩, by decide +kernel⟩
theorem wit_ReadyIsAnsweredAtOnce :
    let snap (w : Nat) : Snapshot := { num := 9, grade := some 0, width := some w, core := none, diam := some 12500,
                                       dock := none, part := false }
    let f (w : Nat) := msg (.shipReady 3 (snap w))
    let s (w : Nat) := rx (f w) (calling .chosen (some 7))
    let g := { f 1000 with src := 8 }
    let full := (s 1000).modPlant fun p =>
      { p with rolls := p.rolls.map fun _ => { gen := 0, roll := some (roll .shipped (.link 1)) } }
    ((rx g base).Head .shipReady g [] ∧ (rx g base).plant.linkTo 8 = none) ∧
    ((rx (f 1000) base).Head .shipReady (f 1000) [] ∧ (rx (f 1000) base).plant.chosenCall (f 1000) = none) ∧
    ((s 1006).Head .shipReady (f 1006) [] ∧ (s 1006).plant.linkTo 7 ≠ none ∧
      (s 1006).plant.chosenCall (f 1006) = some (call .chosen (some 7)) ∧
      (s 1006).plant.shipRefusal (call .chosen (some 7)) (f 1006).shipSnapshot.ranged = some 2) ∧
    (full.Head .shipReady (f 1000) [] ∧ full.plant.chosenCall (f 1000) = some (call .chosen (some 7)) ∧
      full.plant.shipRefusal (call .chosen (some 7)) (f 1000).shipSnapshot.ranged = some 3) ∧
    (s 995).Head .shipReady (f 995) [] ∧ (s 995).plant.chosenCall (f 995) = some (call .chosen (some 7)) ∧
      (s 995).plant.shipRefusal (call .chosen (some 7)) (f 995).shipSnapshot.ranged = none ∧
      (s 995).plant.link? 1 = some (linkRec Outbound.idle Inbound.idle) ∧
      (s 995).plant.linkCfg 1 = some cfg7 :=
  ⟨⟨head_of (by decide +kernel), by decide +kernel⟩, ⟨head_of (by decide +kernel), by decide +kernel⟩,
    ⟨head_of (by decide +kernel), by decide +kernel⟩, ⟨head_of (by decide +kernel), by decide +kernel⟩,
    head_of (by decide +kernel), by decide +kernel⟩
theorem wit_ShipmentsAdvance :
    let f := msg (.accept 3 9)
    ((rx f (shipping .asking)).Head .accept f [] ∧
      (rx f (shipping .asking)).plant.outboundFor f [.asking] = some (linkRec (outRec .asking) Inbound.idle)) ∧
    ((rx f (shipping .conveying)).Head .accept f [] ∧ (rx f (shipping .conveying)).plant.outboundFor f [.asking] = none) ∧
    (shipping .carrying).plant.link? 1 = some (linkRec (outRec .carrying) Inbound.idle) ∧
      reached (shipping .carrying).plant.clock.ms 1000 = true :=
  ⟨⟨head_of (by decide +kernel), by decide +kernel⟩, ⟨head_of (by decide +kernel), by decide +kernel⟩, by decide +kernel⟩
theorem wit_UndeliveredRollsAreStowed :
    let f := msg (.refuse 3 9 2)
    let s := rx f (shipping .asking)
    let u := shipping .conveying
    (s.plant.linkCfg 1 = some cfg7 ∧ (s.plant.stop? 4).map (·.roll) = some (some h0) ∧
      (s.plant.roll? h0).isSome = true ∧ s.plant.inTask h0 = false ∧ s.plant.sched.queue.length < 16) ∧
    (s.Head .refuse f [] ∧ s.plant.outboundFor f [.asking] = some (linkRec (outRec .asking) Inbound.idle)) ∧
    (s.plant.link? 1 = some (linkRec (outRec .asking) Inbound.idle) ∧ reached s.plant.clock.ms 1000 = true) ∧
    u.plant.link? 1 = some (linkRec (outRec .conveying) Inbound.idle) ∧ (u.plant.stop? 4).map (·.roll) = some (some h0) ∧
      u.plant.inTask h0 = false :=
  ⟨by decide +kernel, ⟨head_of (by decide +kernel), by decide +kernel⟩, by decide +kernel⟩
/-- As many tasks for another roll. -/
def busy (n : Nat) (s : State) : State := s.modPlant fun p =>
  { p with sched := { p.sched with queue := (oneTo n).map fun i => task i h1 } }
/-- The same statement: the queue full, one place in it, and items that stay pending of a roll that has a task. -/
theorem wit_UndeliveredRollsAreStowed_pending :
    let loaded := onCart (fun k => { k with load := some h0, pending := some .stow }) (put 0 (roll .carried (.cart 1)) base)
    let butt := onStand (fun st => { st with
      armA := { st.armA with state := .butt, roll := .record h0 }, pendingUnload := some .a }) (put 0 (roll .butt (.arm 1 .a)) base)
    let item (x : Nat) (s : State) : State := onStop x (fun y => { y with pending := some .stow }) s
    let loose (s : State) : Bool := (s.plant.roll? h0).isSome && !s.plant.inTask h0
    let first (x : Nat) (s : State) : Bool := (s.plant.stop? x).map (fun y => (y.roll, y.pending)) == some (some h0, some .stow) &&
      loose s && s.plant.traffic.carts.all (·.pending.isNone) && s.plant.splice.stands.all (·.pendingUnload.isNone)
    let named (s : State) : Plant := (s.modPlant fun p => { p with sched := { p.sched with queue := [task 1 h0] } }).plant.offerPending
    let docks := item 6 (rollAt 6 base)
    ((busy 16 (shipping .asking)).plant.inTask h0 = false ∧ 16 ≤ (busy 16 (shipping .asking)).plant.sched.queue.length) ∧
    (loose (busy 16 docks) ∧ ((busy 16 docks).plant.stop? 6).map (·.roll) = some (some h0)) ∧
    (loose (busy 16 loaded) ∧ ((busy 16 loaded).plant.cart? 1).map (·.load) = some (some h0) ∧
      ∀ t ∈ (busy 16 loaded).plant.sched.queue, t.noSlot = false) ∧
    (loose (busy 16 butt) ∧ ((busy 16 butt).plant.arm? 1 .a).map (·.roll) = some (.record h0)) ∧
    ((busy 3 base).plant.task? 2 = some (task 2 h1) ∧ base.plant.stopKind 1 ≠ some .scrap) ∧
    ((busy 15 butt).plant.sched.queue.length = 15 ∧ loose (busy 15 butt) ∧
      ((busy 15 butt).plant.stand? 1).map (fun y => (y.pendingUnload, y.armA.roll)) = some (some .a, .record h0)) ∧
    (loose (busy 15 loaded) ∧ ((busy 15 loaded).plant.cart? 1).map (fun k => (k.pending, k.load)) = some (some .stow, some h0) ∧
      ∀ y ∈ (busy 15 loaded).plant.splice.stands, y.pendingUnload = none) ∧
    -- DOCK 6 before PREP 2, PREP 2 before OUT 4, OUT 4 before IN 5
    (first 6 (busy 15 (item 2 docks)) ∧ first 2 (busy 15 (item 4 (item 2 (rollAt 2 base)))) ∧
      first 4 (busy 15 (item 5 (item 4 (rollAt 4 base)))) ∧ base.plant.stopKind 5 = some .inn) ∧
    ((named butt).sched.queue.length < 16 ∧ (named butt).inTask h0 = true ∧
      ((named butt).stand? 1).map (·.pendingUnload) = some (some .a) ∧
      ((named loaded).cart? 1).map (·.pending) = some (some .stow) ∧
      ((named docks).stop? 6).map (·.pending) = some (some .stow)) := by decide +kernel
theorem wit_ShipmentsEnd :
    let f := msg (.landed 3 9)
    let s := rx f (shipping .inTransit)
    let l := linkRec (outRec .inTransit) Inbound.idle
    (l.out.roll = some h0 ∧ s.plant.inTask h0 = false ∧
      s.plant.roll? h0 = some { roll .shipped (.stop 4) with claim := .ship 1 } ∧ s.plant.link? 1 = some l ∧
      noneCarries s h0) ∧
    (s.Head .landed f [] ∧ s.plant.outboundFor f [.conveying, .inTransit] = some l) ∧
    reached s.plant.clock.ms 1000 = true :=
  ⟨by decide +kernel, ⟨head_of (by decide +kernel), by decide +kernel⟩, by decide +kernel⟩
theorem wit_RollsThatDoNotLand :
    let s := at_ 1000 0 (onLink (fun l => { l with inb := inRec })
      (onSupply (fun u => { u with calls := [call .inbound (some 7)] }) (put 0 (roll .expected (.stop 5)) base)))
    s.plant.link? 1 = some (linkRec Outbound.idle inRec) ∧ inRec.expecting = true ∧ inRec.roll = some h0 ∧
      inRec.landing = some 1000 ∧ reached s.plant.clock.ms 1000 = true ∧ s.plant.inTask h0 = false ∧
      s.plant.roll? h0 = some (roll .expected (.stop 5)) ∧ noneCarries s h0 ∧
      s.plant.callNumbered 3 = some (call .inbound (some 7)) := by decide +kernel

/-! ### Witnesses: the roll table and the scheduler -/

/-- A notice for the place's two bytes and the roll number. -/
def notice (a b : Byte) (n : Nat) : Frame :=
  fr 37 ([a, b] ++ ({ num := n, grade := some 0, width := some 1000, core := none, diam := some 5000, dock := none,
                      part := false } : Snapshot).bytes)
theorem wit_NoticesNameRolls :
    let u := rx (notice 0 1 77) ((put 0 (unknownRoll 1000 .placed (.stop 1)) (rollAt 1 base)))
    let k := rx (notice 0 1 77) (rollAt 1 base)
    let e := rx (notice 0 6 77) base
    let x := rx (notice 0 1 77) (sense (.sensor 1) (.level true) base)
    let arm := rx (notice 1 1 77) (onStand (fun st => { st with armA := { st.armA with state := .run, roll := .unrecorded } }) base)
    let full := x.modPlant fun p => { p with rolls := p.rolls.map fun _ => { gen := 0, roll := some (roll .shipped (.link 1)) } }
    let due (s : State) : State :=
      put 0 (roll .expected (.stop 6)) (onStop 6 (fun y => { y with expected := some h0 }) (rx (notice 0 1 9) s))
    let v := due (sense (.sensor 1) (.level true) base)
    let w := put 1 (unknownRoll 1000 .placed (.stop 1)) (onStop 1 (fun y => { y with roll := some h1 }) (due base))
    (((rx (notice 0 1 0) base).Head .rollNotice (notice 0 1 0) [] ∧ (notice 0 1 0).noticeSnapshot.ranged.num = 0) ∧
    (notice 0 1 1000000000000).noticeSnapshot.ranged.num = 1000000000000 ∧
    (u.Head .rollNotice (notice 0 1 77) [] ∧ u.plant.holderOf 77 = none ∧
      u.plant.heldAt (.stop 1) = .record h0 (unknownRoll 1000 .placed (.stop 1))) ∧
    (k.Head .rollNotice (notice 0 1 77) [] ∧ k.plant.heldAt (.stop 1) = .record h0 (roll .placed (.stop 1))) ∧
    (e.Head .rollNotice (notice 0 6 77) [] ∧ (notice 0 6 77).noticePlace = .stop 6 ∧
      e.plant.heldAt (.stop 6) = .nothing ∧ e.plant.stopKind 6 = some .dock ∧ e.plant.sensor 6 = false ∧
      ∃ h q, (e.popped []).plant.createRoll ((notice 0 6 77).noticeSnapshot.ranged.roll e.plant.core .expected (.stop 6)
        .none false) = some (h, q)) ∧
    ((rx (notice 0 1 77) base).Head .rollNotice (notice 0 1 77) [] ∧ base.plant.heldAt (.stop 1) = .nothing ∧
      base.plant.stopKind 1 = some .slot) ∧
    (rx (notice 0 30 77) base).Head .rollNotice (notice 0 30 77) [] ∧
      base.plant.heldAt (notice 0 30 77).noticePlace = .noPlace) ∧
    ((x.Head .rollNotice (notice 0 1 77) [] ∧ x.plant.heldAt (.stop 1) = .noRecord ∧ x.plant.holderOf 77 = none) ∧
    (arm.Head .rollNotice (notice 1 1 77) [] ∧ (notice 1 1 77).noticePlace = .arm 1 .a ∧
      arm.plant.heldAt (.arm 1 .a) = .noRecord) ∧
    (full.Head .rollNotice (notice 0 1 77) [] ∧ (∀ y ∈ full.plant.rolls, y.roll.isSome = true) ∧
      full.plant.heldAt (.stop 1) = .noRecord ∧ full.plant.holderOf 77 = none)) ∧
    ((rx (notice 0 1 9) (rollAt 1 base)).Head .rollNotice (notice 0 1 9) [] ∧
      (rollAt 1 base).plant.holderOf 9 = some h0 ∧ (rollAt 1 base).plant.roll? h0 = some (roll .placed (.stop 1))) ∧
    ((rx (notice 0 30 9) (rollAt 1 base)).Head .rollNotice (notice 0 30 9) [] ∧
      (rollAt 1 base).plant.heldAt (notice 0 30 9).noticePlace = .noPlace) ∧
    ((rx (notice 0 6 9) (rollAt 1 base)).Head .rollNotice (notice 0 6 9) [] ∧
      (rollAt 1 base).plant.heldAt (notice 0 6 9).noticePlace = .nothing) ∧
    (v.Head .rollNotice (notice 0 1 9) [] ∧ v.plant.holderOf 9 = some h0 ∧
      v.plant.roll? h0 = some (roll .expected (.stop 6)) ∧ v.plant.heldAt (.stop 1) = .noRecord) ∧
    w.Head .rollNotice (notice 0 1 9) [] ∧ w.plant.holderOf 9 = some h0 ∧
      w.plant.roll? h0 = some (roll .expected (.stop 6)) ∧
      w.plant.heldAt (.stop 1) = .record h1 (unknownRoll 1000 .placed (.stop 1)) :=
  ⟨⟨⟨head_of (by decide +kernel), by decide +kernel⟩, by decide +kernel, ⟨head_of (by decide +kernel), by decide +kernel⟩,
    ⟨head_of (by decide +kernel), by decide +kernel⟩,
    ⟨head_of (by decide +kernel), by
      iterate 4 refine ⟨by decide +kernel, ?_⟩
      exact made (by decide +kernel)⟩,
    ⟨head_of (by decide +kernel), by decide +kernel⟩, head_of (by decide +kernel), by decide +kernel⟩,
    ⟨⟨head_of (by decide +kernel), by decide +kernel⟩, ⟨head_of (by decide +kernel), by decide +kernel⟩,
      head_of (by decide +kernel), by decide +kernel⟩,
    ⟨head_of (by decide +kernel), by decide +kernel⟩, ⟨head_of (by decide +kernel), by decide +kernel⟩,
    ⟨head_of (by decide +kernel), by decide +kernel⟩, ⟨head_of (by decide +kernel), by decide +kernel⟩,
    head_of (by decide +kernel), by decide +kernel⟩
/-- The same statement: a DOCK stop whose sensor shows a carted roll, and a merge on an arm. -/
theorem wit_NoticesNameRolls_arm :
    let carted := rx (notice 0 6 77) (sense (.sensor 6) (.level true) (onCart (fun c =>
      { c with state := .transfer, pos := some (.stop 6), load := some h1 }) base))
    let arm (n : Nat) := rx (notice 1 1 n) (onStand (fun st => { st with armA := { st.armA with state := .run, roll := .unrecorded } })
      (put 0 (roll .expected (.stop 6)) (onStop 6 (fun y => { y with expected := some h0 }) base)))
    (carted.Head .rollNotice (notice 0 6 77) [] ∧ carted.plant.heldAt (.stop 6) = .nothing ∧ carted.plant.sensor 6 = true) ∧
    ((arm 9).Head .rollNotice (notice 1 1 9) [] ∧ (arm 9).plant.holderOf 9 = some h0 ∧
      (arm 9).plant.heldAt (.arm 1 .a) = .noRecord ∧ (arm 9).plant.stopKind 6 = some .dock) ∧
    (arm 77).plant.holderOf 77 = none :=
  ⟨⟨head_of (by decide +kernel), by decide +kernel⟩, ⟨head_of (by decide +kernel), by decide +kernel⟩, by decide +kernel⟩
theorem wit_IdentifiedRollsKeepTheirHistory : (rollAt 1 base).plant.roll? h0 = some (roll .placed (.stop 1)) ∧
    (roll .placed (.stop 1)).claim = .none ∧ (rollAt 1 base).plant.spinning (roll .placed (.stop 1)) = false := by
  decide +kernel
theorem wit_StoredRollsOfferTheirRemainingLength : (unknownRoll 1000 .placed (.stop 1)).grade = none ∧
    (roll .placed (.stop 1)).grade = some 0 ∧ base.plant.gradeCfg 0 = some grade ∧
    ({ roll .placed (.stop 1) with diam := some 1500 } : Roll).diam = some 1500 ∧ (1500 : Nat) ≤ grade.ds ∧
    (1501 : Nat) = grade.ds + 1 ∧ 0 < grade.caliper := by decide +kernel
theorem wit_SlotsAreChosenByLaneThenNumber :
    let s := rollAt 6 base
    let t : Task := { task 1 h0 with kind := .stow, src := .stop 6 }
    let u : Task := { t with state := .assigned, cart := some 1, dest := some 1 }
    let queued (t : Task) (s : State) : State := s.modPlant fun p => { p with sched := { p.sched with queue := [t] } }
    let busy (t : Task) : State := queued t (onCart (fun c => { c with task := some 1, state := .starting }) s)
    let both : State := (busy u).modPlant fun p => { p with sched := { p.sched with
      queue := [u, { t with num := 2, kind := .unload, cls := 0, roll := h1, src := .arm 1 .a }] } }
    let ready : State := put 1 (roll .butt (.arm 1 .a)) (onStand (fun st =>
      { st with armA := { st.armA with state := .butt, roll := .record h1 } }) both)
    (s.plant.chooseSlot h0 = some 1 ∧ s.plant.roll? h0 = some (roll .placed (.stop 6)) ∧
      s.plant.gradeCfg 0 = some grade ∧ grade.minReturn ≤ s.plant.storedRemaining (roll .placed (.stop 6)) ∧
      s.plant.scrapStop = some 7) ∧
    ((busy u).plant.task? u.num = some u ∧ (∀ o ∈ (busy u).plant.sched.queue, o.noSlot = false) ∧
      ((busy u).plant.modTask 1 fun o => { o with dest := none }).chooseSlot h0 = some 1) ∧
    ((queued t s).plant.freeCarts ≠ [] ∧ (queued t s).plant.queueOrder.filter (queued t s).plant.isReady = t :: [] ∧
      (queued t s).plant.fromStop t = some 6 ∧ (queued t s).plant.task? t.num = some t ∧
      ((queued t s).plant.cart? 1).map (fun c => (queued t s).plant.legRefusal c 6) = some none) ∧
    (ready.plant.freeCarts = [] ∧ ready.plant.takeable ≠ [] ∧
      ((ready.plant.queueOrder.filter ready.plant.isReady).find? (·.cls == 0)).bind ready.plant.fromStop = some 3) := by
  decide +kernel
/-- The same statement: the readiness of an UNLOAD, and of each kind's to stop. -/
theorem wit_SlotsAreChosenByLaneThenNumber_ready :
    let butt : State := put 1 (roll .butt (.arm 1 .a)) (onStand (fun st =>
      { st with armA := { st.armA with state := .butt, roll := .record h1 } }) base)
    let t (k : TaskKind) (x : Nat) : Task := { task 1 h0 with kind := k, stand := some 1, arm := some .b, dest := some x }
    (butt.plant.isReady { task 2 h1 with kind := .unload, src := .arm 1 .a } = true ∧
      (butt.plant.standCfg 1).map (·.standStop) = some 3 ∧ (butt.plant.stop? 3).map (·.claim) = some none) ∧
    (base.plant.destReady (t .feedPrep 2) = true ∧ (rollAt 2 base).plant.destReady (t .feedPrep 2) = false) ∧
    (base.plant.destReady (t .feedMount 3) = true ∧ butt.plant.destReady { t .feedMount 3 with arm := some .a } = false) ∧
    base.plant.destReady (t .ship 4) = true ∧ base.plant.destReady (t .reject 7) = true ∧
    base.plant.destReady { t .stow 1 with dest := none } = true := by decide +kernel
/-- The readiness, arrival and target arm clauses of the same statement. -/
theorem wit_SlotsAreChosenByLaneThenNumber_arrival :
    let s := rollAt 6 base
    let t : Task := { task 1 h0 with kind := .stow, src := .stop 6 }
    let u : Task := { t with state := .assigned, cart := some 1, dest := some 1 }
    let queued (t : Task) (s : State) : State := s.modPlant fun p => { p with sched := { p.sched with queue := [t] } }
    let arrived (t : Task) (x : Nat) (flag on : Bool) : State := sense (.sensor x) (.level on) (queued t (onCart (fun c =>
      { c with state := .idle, pos := some (.stop x), task := some 1, loadFlag := flag }) s))
    let v : Task := { u with state := .carrying }
    let mount : Task := { u with kind := .feedMount, stand := some 1 }
    ((queued t s).plant.isReady t = true ∧ (queued t s).plant.isReady u = false ∧ ((queued t s).plant.stop? 6).isSome = true) ∧
    ((arrived u 6 false true).plant.task? 1 = some u ∧ u.cart = some 1 ∧ u.dest = some 1 ∧
      ((arrived u 6 false true).plant.cart? 1).map (fun k => (k.pos, k.state, k.loadFlag)) = some (some (.stop 6), .idle, false) ∧
      ((arrived u 6 false true).plant.stop? 6).isSome = true ∧ (arrived u 6 false true).plant.standOfStop 6 = none ∧
      (arrived u 6 false true).plant.stopLost 6 = false ∧ (arrived u 6 false true).plant.sensor 6 = true ∧
      (arrived u 6 false false).plant.sensor 6 = false) ∧
    ((arrived v 1 true false).plant.task? 1 = some v ∧
      ((arrived v 1 true false).plant.cart? 1).map (fun k => (k.pos, k.state, k.loadFlag)) = some (some (.stop 1), .idle, true) ∧
      ((arrived v 1 true false).plant.stop? 1).isSome = true ∧ (arrived v 1 true false).plant.standOfStop 1 = none ∧
      (arrived v 1 true false).plant.stopLost 1 = false ∧ (arrived v 1 true false).plant.sensor 1 = false ∧
      (arrived v 1 true true).plant.sensor 1 = true) ∧
    (s.plant.stand? 1).isSome = true ∧ mount.kind = .feedMount ∧ mount.stand = some 1 := by
  decide +kernel
/-- The same statement: a STOW whose slot is lost while another STOW has its no slot flag set, WAITING or CARRYING, with slots 1 and 9
full or slot 9 open. -/
theorem wit_SlotsAreChosenByLaneThenNumber_waiting :
    let t (st : TaskState) : Task := { task 1 h0 with state := st, cart := some 1, dest := some 1 }
    let o (st : TaskState) : Task := { task 2 h1 with src := .stop 4, state := st, noSlot := true }
    let s (full : List Nat) (t o : Task) : State := full.foldl (fun s x => onStop x (fun y => { y with roll := some h1 }) s)
      ((rollAt 6 base).modPlant fun p => { p with sched := { p.sched with queue := [t, o] } })
    let released (s : State) : Plant := s.plant.modTask 1 fun k => { k with dest := none }
    let waits (s : State) (o : Task) : Prop := o ∈ s.plant.sched.queue ∧ o.num ≠ 1 ∧ o.kind = .stow ∧ o.noSlot = true
    (∀ st ∈ [TaskState.assigned, .loading, .carrying], (s [1, 9] (t st) (o .waiting)).plant.task? 1 = some (t st) ∧
      (t st).noSlot = false ∧ (released (s [1, 9] (t st) (o .waiting))).chooseSlot h0 = none ∧
      waits (s [1, 9] (t st) (o .waiting)) (o .waiting)) ∧
    ((released (s [1] (t .carrying) (o .waiting))).chooseSlot h0 = some 9 ∧ waits (s [1] (t .carrying) (o .waiting)) (o .waiting) ∧
      ∀ k ∈ (s [1] (t .carrying) (o .waiting)).plant.sched.queue, k.noSlot = true → k.kind = .stow ∧ k.state = .waiting) ∧
    ((s [1] (t .assigned) (o .carrying)).plant.sched.queue.filter (·.noSlot) = [o .carrying] ∧
      waits (s [1] (t .assigned) (o .carrying)) (o .carrying) ∧
      (s [1] (t .assigned) (o .carrying)).plant.task? 2 = some (o .carrying) ∧
      (released (s [1] (t .assigned) (o .carrying))).chooseSlot h1 = some 9) := by decide +kernel
/-- The same statement: distances on the ring, a cart with a transfer to ask for, a slot that opens for a flagged STOW, a carry leg
to give again, and rounds of settling that have something to do and nothing. -/
theorem wit_SlotsAreChosenByLaneThenNumber_settle :
    let queued (ts : List Task) (s : State) : State := s.modPlant fun p => { p with sched := { p.sched with queue := ts } }
    let t (st : TaskState) : Task := { task 1 h0 with state := st, cart := some 1, dest := some 1 }
    let there : Cart := { num := 1, state := .idle, pos := some (.stop 6), load := none, loadFlag := false, leg := none, queued := none
                          held := [], task := some 1, startWait := none, startsFrom := none, transit := none, transfer := none
                          arm := none, lastFault := none, pending := none, noRecord := false, surveyReads := [] }
    let arrived := sense (.sensor 6) (.level true) (queued [t .assigned] (onCart (fun _ => there) (rollAt 6 base)))
    let carries := queued [t .carrying] (put 0 (roll .carried (.cart 1)) (onCart (fun _ => { there with load := some h0 }) base))
    let flagged := queued [{ task 1 h0 with noSlot := true }] base
    let round (s : State) : Option Settling := Settling.round { plant := s.plant, refused := [] }
    ((base.plant.cart? 1).map (·.pos) = some (some (.stop 8)) ∧ (base.plant.stopCfg 8).map (·.sec) = some 1 ∧
      (base.plant.stopCfg 6).map (·.sec) = some 4 ∧ base.plant.image.sections.length = 4 ∧ base.plant.stopCfg 40 = none) ∧
    (arrived.plant.traffic.carts = [] ++ there :: [] ∧ arrived.plant.task? 1 = some (t .assigned) ∧
      arrived.plant.fromStop (t .assigned) = some 6 ∧ (round arrived).isSome = true ∧
      arrived.plant.refreshTasks.arrivedWithTask [] = some (there, t .assigned, .toCart) ∧
      base.plant.refreshTasks.arrivedWithTask [] = none ∧ (round base).isNone = true) ∧
    ((flagged.plant.stopCfg 1).map (·.kind) = some .slot ∧ flagged.plant.slotHolding 1 = false ∧
      flagged.plant.slotBound 1 = false ∧ flagged.plant.stopLost 1 = false ∧
      (∀ k ∈ flagged.plant.sched.queue, k.noSlot = true) ∧ flagged.plant.refreshTasks.slotRound.isSome = true ∧
      flagged.plant.refreshTasks.arrivedWithTask [] = none ∧ flagged.plant.task? 1 = some { task 1 h0 with noSlot := true }) ∧
    ((queued [task 1 h0] (rollAt 6 base)).plant.refreshTasks.slotRound.isNone = true ∧
      (queued [task 1 h0] (rollAt 6 base)).plant.refreshTasks.assignRound.isSome = true) ∧
    (carries.plant.sched.queue = [] ++ t .carrying :: [] ∧ carries.plant.legRefusal { there with load := some h0 } 1 = none ∧
      carries.plant.refreshTasks.carryRound.isSome = true ∧ carries.plant.refreshTasks.assignRound.isNone = true) := by
  decide +kernel
/-- The cart holds sections 1 and 2. -/
def holding2 : State := onSection 1 (fun y => { y with state := .occupied 1 })
  (onSection 2 (fun y => { y with state := .reserved 1 }) (onCart (fun k => { k with state := .running, held := [1, 2] }) base))
theorem wit_StepsKeepRollsInOrder : RollsInOrder base.plant.rolls ∧ (rollAt 1 base).plant.PlacesAgree ∧
    ((rollAt 1 base).plant.stop? 1).map (·.roll) = some (some h0) ∧ holding2.plant.HoldsAgree ∧
    (holding2.plant.cart? 1).map (·.held) = some [1, 2] ∧ ∃ t, step base = .next t := by
  have free : ∀ s ∈ base.plant.rolls, s.roll = none := by decide +kernel
  have stops : ∀ y ∈ (rollAt 1 base).plant.traffic.stops, y.expected = none ∧ (y.roll = none ∨ y.num = 1 ∧ y.roll = some h0) := by
    decide +kernel
  have carts : ∀ k ∈ (rollAt 1 base).plant.traffic.carts, k.load = none := by decide +kernel
  have arms : ∀ s ∈ (rollAt 1 base).plant.splice.stands, s.armA.roll = .none ∧ s.armB.roll = .none := by decide +kernel
  have placed : (rollAt 1 base).plant.roll? h0 = some (roll .placed (.stop 1)) := by decide +kernel
  have held : ∀ k ∈ holding2.plant.traffic.carts, k.num = 1 ∧ k.held = [1, 2] := by decide +kernel
  have sections : (holding2.plant.section? 1).map (·.state.holder) = some (some 1) ∧
      (holding2.plant.section? 2).map (·.state.holder) = some (some 1) := by decide +kernel
  have agree : holding2.plant.HoldsAgree := by
    constructor
    · intro c k hk
      simp [(held k (List.mem_of_find?_eq_some hk)).2]
    · intro c k n hk hn
      have num : (k.num == c) = true := List.find?_some (p := fun z : Cart => z.num == c) hk
      obtain ⟨h1, h2⟩ := held k (List.mem_of_find?_eq_some hk)
      obtain rfl : c = 1 := by rw [← h1]; exact (beq_iff_eq.1 num).symm
      rw [h2] at hn
      obtain rfl | rfl : n = 1 ∨ n = 2 := by simpa using hn
      · exact Option.map_eq_some_iff.1 sections.1
      · exact Option.map_eq_some_iff.1 sections.2
  refine ⟨⟨by decide +kernel, by decide +kernel, fun i j s t r q n hi _ hr _ _ _ => ?_⟩, ⟨?_, ?_, ?_, ?_⟩, by decide +kernel,
    agree, by decide +kernel, _, rfl⟩
  · rw [free s (List.mem_of_getElem? hi)] at hr
    cases hr
  · intro x y h hy hr
    have num : (y.num == x) = true := List.find?_some (p := fun z : Stop => z.num == x) hy
    obtain ⟨-, hn | ⟨h1, h2⟩⟩ := stops y (List.mem_of_find?_eq_some hy)
    · rw [hn] at hr; cases hr
    · rw [h2] at hr; cases hr
      obtain rfl : x = 1 := by rw [← h1]; exact (beq_iff_eq.1 num).symm
      exact ⟨_, placed, rfl, rfl⟩
  · intro x y h hy hr
    rw [(stops y (List.mem_of_find?_eq_some hy)).1] at hr; cases hr
  · intro c k h hk hr
    rw [carts k (List.mem_of_find?_eq_some hk)] at hr; cases hr
  · intro n m a h ha hr
    simp only [Plant.arm?, Option.map_eq_some_iff] at ha
    obtain ⟨st, hst, rfl⟩ := ha
    have := arms st (List.mem_of_find?_eq_some hst)
    cases m <;> simp [Stand.arm, this] at hr
theorem wit_StepsKeepTheTaskQueueInOrder : base.plant.sched.InOrder ∧ (calling .opened (some 0)).plant.supply.InOrder ∧
    ∃ t, step base = .next t :=
  ⟨by constructor <;> decide +kernel, by constructor <;> decide +kernel, _, rfl⟩

/-! ### Witnesses: editions, copies and waste -/

def v1 : Version := { id := 11, ordered := 10, good := 10, state := .complete }
def v2 : Version := { id := 12, ordered := 20, good := 19, state := .running }
def v3 : Version := { id := 13, ordered := 30, good := 0, state := .pending }
def edition (st : EditionState) (cur : Option Nat) (vs : List Version) : EditionCounter :=
  { EditionCounter.reset with
    state := st, id := some 7310, cutOff := 560, startWaste := 300, stands := [1], versions := vs, cur := cur
    counts := { Counters.zero with gross := (vs.map (·.good)).sum, good := (vs.map (·.good)).sum } }
def printing (e : EditionCounter) : State := { base with press := { base.press with edition := e } }
def twoOf : State := printing (edition .running (some 2) [v1, v2, v3])

theorem wit_PlansAreLoadedOrRefused :
    let f := fr 32 (u16 7310 ++ u16 560 ++ u16 300 ++ [1, 1] ++ [11] ++ u24 40000)
    ((rx f twoOf).Head .edition f [] ∧ (rx f twoOf).press.edition.state = .running) ∧
    (rx f base).Head .edition f [] ∧ (rx f base).press.edition.state = .none :=
  ⟨⟨head_of (by decide +kernel), by decide +kernel⟩, head_of (by decide +kernel), by decide +kernel⟩
theorem wit_AmendmentsChangeOneVersion :
    let f (vid : Byte) (n : Nat) := fr 33 (u16 7310 ++ [vid] ++ u32 n)
    ((rx (f 11 5) base).Head .amend (f 11 5) [] ∧ base.press.edition.state = .none) ∧
    ((rx (f 14 5) twoOf).Head .amend (f 14 5) [] ∧ twoOf.press.edition.id = some ((f 14 5).num 0 2) ∧
      ∀ v ∈ twoOf.press.edition.versions, v.id ≠ (f 14 5).num 2 1) ∧
    ((rx (f 12 2000001) twoOf).Head .amend (f 12 2000001) [] ∧ 2000000 < (f 12 2000001).num 3 4) ∧
    ((rx (f 11 1) twoOf).Head .amend (f 11 1) [] ∧ twoOf.press.edition.versions = [] ++ v1 :: [v2, v3] ∧
      (f 11 1).num 3 4 = 1 ∧ ([] : List Version).length + 1 < twoOf.press.edition.cur.getD 0) ∧
    ((rx (f 12 1) twoOf).Head .amend (f 12 1) [] ∧ twoOf.press.edition.versions = [v1] ++ v2 :: [v3] ∧
      v2.id = (f 12 1).num 2 1 ∧ (∀ b ∈ [v1], b.id ≠ v2.id) ∧ twoOf.press.edition.cur = some ([v1].length + 1)) ∧
    (f 13 2000000).num 3 4 = 2000000 :=
  ⟨⟨head_of (by decide +kernel), by decide +kernel⟩, ⟨head_of (by decide +kernel), by decide +kernel⟩,
    ⟨head_of (by decide +kernel), by decide +kernel⟩, ⟨head_of (by decide +kernel), by decide +kernel⟩,
    ⟨head_of (by decide +kernel), by decide +kernel⟩, by decide +kernel⟩
theorem wit_EndsClearTheEdition :
    let f := fr 34 (u16 7310)
    ((rx f base).Head .editionEnd f [] ∧ base.press.edition.state = .none) ∧
    (rx f twoOf).Head .editionEnd f [] ∧ twoOf.press.edition.state ≠ .none ∧
      twoOf.press.edition.id = some (f.num 0 2) :=
  ⟨⟨head_of (by decide +kernel), by decide +kernel⟩, head_of (by decide +kernel), by decide +kernel⟩
theorem wit_DivertsAndTallyRequestsAreTaken :
    (rx (fr 35 (u16 1000)) base).Head .divert (fr 35 (u16 1000)) [] ∧
    (rx (fr 35 (u16 1001)) base).Head .divert (fr 35 (u16 1001)) [] ∧
    (rx (fr 36 [1, 0, 0]) twoOf).Head .requestTally (fr 36 [1, 0, 0]) [] :=
  ⟨head_of (by decide +kernel), head_of (by decide +kernel), head_of (by decide +kernel)⟩
theorem wit_CopiesAreClassedAndCounted : (base.plant.lineRun = true ∧ base.press.edition.state = .none) ∧
    (twoOf.plant.lineRun = true ∧ twoOf.press.edition.state = .running ∧ twoOf.press.edition.cur = some 2 ∧
      twoOf.press.edition.versions[1]? = some v2 ∧ v2.good + 1 = v2.ordered ∧
      twoOf.press.edition.counts.gross < 4294967295 ∧ twoOf.press.waste.latch = false ∧
      ([1, 2, 3, 4].any fun n => twoOf.inUse n && twoOf.bringAll.windowOpen n) = false) ∧
    (let s : State := { twoOf with press := { twoOf.press with waste := { twoOf.press.waste with latch := true } } }
     s.press.waste.latch = true ∧ s.press.edition.current = some v2 ∧ v2.good ≠ v2.ordered) ∧
    -- the last copy of the last version, with a trim window counting; a LOADED edition
    (let last : State := onWeb (fun w => { w with trimStart := some 0, trimCount := 999 })
      (printing (edition .running (some 2) [v1, v2]))
     last.inUse 1 = true ∧ last.press.edition.cur = some 2 ∧ last.press.edition.versions[1]? = some v2 ∧
       last.press.edition.versions.length = 2) ∧
    (printing (edition .loaded none [v3])).press.edition.state = .loaded ∧
    (let m : Mark := { pos := 0, old := .record h0, new := .record h1, reached := false }
     let marked (um : Nat) : State := onWeb (fun w => { w with w := BitVec.ofNat 64 (65536 * um) }) (base.modWasteStand 1 fun w =>
       { w with marks := [m, m], folder := .record h0 })
     (base.waste? 1).map (·.marks) = some [] ∧ ((marked 0).waste? 1).map (·.marks) = some [m, m] ∧
       -- the folder point is at 48,000 mm, the window from 47,500 mm to 50,500 mm
       passed ((marked 47500000).webPos 1) (m.pos + mm standCfg.pathLen - mm standCfg.pre) = true ∧
       passed ((marked 47499999).webPos 1) (m.pos + mm standCfg.pathLen - mm standCfg.pre) = false ∧
       passed ((marked 48000000).webPos 1) (m.pos + mm standCfg.pathLen) = true ∧
       passed ((marked 47999999).webPos 1) (m.pos + mm standCfg.pathLen) = false ∧
       passed ((marked 50500000).webPos 1) (m.pos + mm standCfg.pathLen + mm standCfg.post) = true ∧
       passed ((marked 50499999).webPos 1) (m.pos + mm standCfg.pathLen + mm standCfg.post) = false) := by decide +kernel
theorem wit_PressEdgesAreTaken :
    let l := printing (edition .loaded none [v3])
    let m := printing (edition .running (some 1) [v1, v3])
    let u := m.modStand 1 fun st => { st with phase := .armed }
    let pasted (a b : ArmState) := m.modStand 1 fun st => { st with
      phase := .pasted, runArm := some .a, armA := { st.armA with state := a }, armB := { st.armB with state := b } }
    (inNode .survey base).plant.lineRun = false ∧ base.plant.lineRun = true ∧
    (l.press.edition.state = .loaded ∧ l.press.edition.versions = v3 :: []) ∧
    (m.press.edition.state = .running ∧ m.press.edition.cur = some (([] : List Version).length + 1) ∧
      m.press.edition.versions = [] ++ v1 :: v3 :: [] ∧ v1.state = .complete) ∧
    base.press.edition.state = .none ∧ (u.plant.stand? 1).map (·.phase) = some .armed ∧
    (((pasted .run .spin).plant.stand? 1).map (fun st => (st.phase, st.runArm, st.armA.state, st.armB.state)) =
      some (.pasted, some .a, .run, .spin) ∧ (pasted .run .spin).plant.webPresent 1 = false ∧
      (sense (.web 1) (.level true) (pasted .run .spin)).plant.webPresent 1 = true ∧
      (pasted .run .spin).plant.standCfg 1 = some standCfg) ∧
    ((pasted .run .empty).plant.stand? 1).map (fun st => (st.phase, st.armB.state)) = some (.pasted, .empty) := by
  decide +kernel
def web (start : Option WebPos) (count : Nat) : WebStand :=
  { num := 1, w := 65536, k := 13107200, wLast := 0, v := 12000, trimStart := start, trimCount := count }
theorem wit_TrimWindowsEnd :
    let s (w : WebStand) := onWeb (fun _ => w) base
    base.plant.lineRun = true ∧ base.plant.standCfg 1 = some standCfg ∧
      (s (web (some 0) 1000)).web? 1 = some (web (some 0) 1000) ∧ standCfg.trimLen ≤ (web (some 0) 1000).trimCount ∧
      (s (web (some 1) 1000)).web? 1 = some (web (some 1) 1000) ∧
      (s (web (some 0) 999)).web? 1 = some (web (some 0) 999) ∧ (web (some 0) 999).trimCount < standCfg.trimLen := by
  decide +kernel
theorem wit_StepsKeepTheEditionInOrder : twoOf.press.edition.InOrder ∧ twoOf.MarksInOrder ∧
    ∃ t, step { twoOf with pending := [.copyPulse] } = .next t := by
  have marks : ∀ w ∈ twoOf.press.waste.stands, w.marks.length ≤ 4 := by decide +kernel
  refine ⟨?_, fun n w h => marks w (List.mem_of_find?_eq_some h), _, rfl⟩
  constructor
  case current =>
    have two : twoOf.press.edition.cur = some 2 := by decide +kernel
    have long : 2 ≤ twoOf.press.edition.versions.length := by decide +kernel
    intro k hk
    rw [two] at hk
    cases hk
    exact ⟨by decide, long⟩
  all_goals decide +kernel
theorem wit_EditionAndGateChangeOnlyByTheirCommands : ∃ t, step { twoOf with pending := [.copyPulse] } = .next t :=
  ⟨_, rfl⟩

/-! ### Witnesses: the field link, the track and the carts -/

def modRec (n : Nat) : ModuleRec := { num := 1, missed := n, lost := false, answered := false, inputs := List.replicate 64 .nothing }
def missing (n : Nat) (s : State) : State := s.modPlant fun p => p.modModule 1 fun m => { m with missed := n }
/-- The cart under way from its PARK stop 8 (section 1) to stop 3 (section 3) with section 1 its own and section 2 reserved. -/
def onTheWay : Cart :=
  { num := 1, state := .running, pos := some (.sec 1), load := none, loadFlag := false, leg := some { stop := 3, task := none }
    queued := none, held := [1, 2], task := none, startWait := none, startsFrom := none, transit := some 1000, transfer := none, arm := none
    lastFault := none, pending := none, noRecord := false, surveyReads := [] }
def under (k : Cart) (s : State) : State :=
  onSection 1 (fun x => { x with state := .occupied 1, level := .run })
    (onSection 2 (fun x => { x with state := .reserved 1 }) (onCart (fun _ => k) s))
def moving : State := onStop 8 (fun x => { x with cart := none, claim := none }) (onStop 3 (fun x => { x with claim := some 1 }) (under onTheWay base))
/-- It has just left its stop: only section 1, reserved. -/
def leaving : State :=
  onSection 1 (fun x => { x with state := .reserved 1 }) (onSection 2 (fun x => { x with state := .free })
    (onStop 3 (fun x => { x with claim := some 1 }) (under { onTheWay with pos := some (.stop 8), held := [1] } base)))
/-- The cart at slot 1, with a transfer going on there or not. -/
def cartAt1 (st : CartState) (load : Option Handle) (flag : Bool) (d : Option TransferDir) (s : State) : State :=
  onCart (fun k => { k with state := st, pos := some (.stop 1), load := load, loadFlag := flag })
    (onStop 1 (fun y => { y with cart := some 1, transfer := d }) s)
/-- It sets its roll down there. -/
def lowering : State := cartAt1 .transfer (some h0) false (some .toStop) (put 0 (roll .carried (.cart 1)) base)
/-- The cart sets a roll down at a stop. -/
def loweringAt (x : Nat) (c : Claim) (prepared : Bool) (s : State) : State :=
  put 0 { roll .carried (.cart 1) with claim := c, prepared := prepared }
    (onCart (fun k => { k with state := .transfer, pos := some (.stop x), load := some h0 })
      (onStop x (fun y => { y with cart := some 1, transfer := some .toStop }) s))
def still (k : Cart) : State := at_ 1000 0 (onCart (fun _ => k) base)

theorem wit_ModulesAnswerOrAreLost :
    let lost := (missing 3 base).modPlant fun p => p.modModule 1 fun x => { x with lost := true }
    let armed := sense (.armLoaded 1 .a) (.level true) (onStand (fun st => st.setArm .a fun a =>
      { a with state := .mounted, roll := .unrecorded }) base)
    let full := sense (.sensor 1) (.level true) (base.modPlant fun p => { p with
      rolls := p.rolls.map fun _ => { gen := 0, roll := some (roll .placed (.stop 9)) } })
    ((missing 1 base).plant.module? 1 = some (modRec 1) ∧ (missing 1 base).plant.node = .run ∧ (1 : Nat) + 1 < 3 ∧
      base.plant.polled = 1 ∧ (base.plant.image.modules[0]?).map (·.address) = some 1) ∧
    (base.plant.sectionCfg 4).map (·.modNo) = some 1 ∧ (base.plant.linkCfg 1).map (·.convModule) = some 1 ∧
    (State.reset.plant.node ≠ .survey ∧ State.reset.plant.node ≠ .run ∧ base.plant.polled ≠ 2) ∧
    (missing 2 base).plant.module? 1 = some (modRec 2) ∧ 3 ≤ (2 : Nat) + 1 ∧
    (missing 3 base).plant.module? 1 = some (modRec 3) ∧ (inNode .survey (missing 3 base)).plant.node = .survey ∧
    (inNode .survey (missing 3 base)).plant.module? 1 = some (modRec 3) ∧
    0 < (modRec 1).inputs.length ∧ (missing 1 base).plant.pointOf 1 1 = some (.occupancy 1) ∧
    PointInput.level true ≠ .nothing ∧
    (lost.plant.module? 1 = some { modRec 3 with lost := true } ∧ lost.plant.node = .run ∧ lost.plant.polled = 1) ∧
    ((onSection 2 (fun x => { x with state := .blocked }) base).plant.occupied 2 = false ∧
      (onSection 2 (fun x => { x with state := .blocked }) base).plant.someCartExpected 2 = false) ∧
    ((rollAt 1 base).plant.sensor 1 = false ∧ (rollAt 1 base).plant.conveyingAt 1 = none ∧
      (rollAt 1 base).plant.sensorHeld 1 = false ∧ (rollAt 1 base).plant.stopKind 1 = some .slot) ∧
    (full.plant.sensor 1 = true ∧ (full.plant.stop? 1).map (fun y => (y.roll, y.expected)) = some (none, none) ∧
      ∀ q ∈ full.plant.rolls, q.roll.isSome = true) ∧
    (armed.plant.armLoaded 1 .a = true ∧ (armed.plant.arm? 1 .a).map (·.roll) = some .unrecorded ∧
      armed.plant.sensorHeld 3 = false ∧ (armed.plant.createRoll (unknownRoll 1000 .mounted (.arm 1 .a))).isSome = true) ∧
    base.plant.pointOf 3 6 = some (.web 1) ∧ base.plant.pointOf 3 3 = some (.spliceNow 1) := by decide +kernel
/-- The same statement: a lost section RESERVED for a cart or OCCUPIED by it, a lost stop with a cart STARTING or in TRANSFER, or
with none, and an ASSIGNED task from it. -/
theorem wit_ModulesAnswerOrAreLost_track :
    let there (st : CartState) : State := onCart (fun _ => { onTheWay with state := st, pos := some (.stop 8), held := [] }) base
    let t : Task := { task 1 h0 with cart := some 1, state := .assigned, dest := some 1 }
    let fetching : Cart := { onTheWay with task := some 1, leg := some { stop := 6, task := some 1 } }
    let assigned := (onCart (fun _ => fetching) moving).modPlant fun p => { p with sched := { p.sched with queue := [t] } }
    ((moving.plant.section? 2).map (·.state) = some (.reserved 1) ∧ (moving.plant.section? 1).map (·.state) = some (.occupied 1) ∧
      moving.plant.cart? 1 = some onTheWay ∧ onTheWay.held = [1] ++ 2 :: [] ∧ 2 ∉ [1] ∧ onTheWay.held = [] ++ 1 :: [2] ∧
      onTheWay.task = none) ∧
    ((there .starting).plant.traffic.carts = [] ++ { onTheWay with state := .starting, pos := some (.stop 8), held := [] } :: [] ∧
      (there .transfer).plant.traffic.carts = [] ++ { onTheWay with state := .transfer, pos := some (.stop 8), held := [] } :: [] ∧
      ∀ c ∈ base.plant.traffic.carts, c.pos = some (.stop 8) → c.state ≠ .starting ∧ c.state ≠ .transfer) ∧
    (assigned.plant.queueOrder.filter (fun o => o.state == .assigned && assigned.plant.fromStop o == some 6) = [t] ∧
      assigned.plant.task? 1 = some t ∧ assigned.plant.cart? 1 = some fetching ∧
      (∀ o ∈ assigned.plant.sched.queue, o.dest ≠ some 6) ∧ fetching.pending = none ∧ fetching.noRecord = false ∧
      fetching.queued = none ∧ fetching.pos = some (.sec 1)) := by decide +kernel
/-- The same statement: the cart that loses section 1, or its stop 6, holds a task. -/
theorem wit_ModulesAnswerOrAreLost_task :
    let t (st : TaskState) : Task := { task 1 h0 with cart := some 1, state := st, dest := some 1 }
    let queued (t : Task) (s : State) : State := s.modPlant fun p => { p with sched := { p.sched with queue := [t] } }
    let driving : Cart := { onTheWay with load := some h0, task := some 1 }
    let drives := queued (t .carrying) (put 0 (roll .carried (.cart 1)) (onCart (fun _ => driving) moving))
    let loading : Cart := { onTheWay with state := .transfer, pos := some (.stop 6), held := [], task := some 1 }
    let loads := queued (t .loading) (onCart (fun _ => loading) (rollAt 6 base))
    let still (s : State) : Prop := (∀ y ∈ s.plant.traffic.stops, y.pending = none) ∧
      (∀ y ∈ s.plant.traffic.carts, y.pending = none) ∧ ∀ y ∈ s.plant.splice.stands, y.pendingUnload = none
    ((drives.plant.section? 1).map (·.state) = some (.occupied 1) ∧ drives.plant.cart? 1 = some driving ∧
      driving.held = [] ++ 1 :: [2] ∧ drives.plant.task? 1 = some (t .carrying) ∧ (t .carrying).kind ≠ .ship ∧
      drives.plant.roll? h0 = some (roll .carried (.cart 1)) ∧ drives.plant.sched.queue.length ≤ 16 ∧ still drives) ∧
    (loads.plant.traffic.carts = [] ++ loading :: [] ∧ loads.plant.task? 1 = some (t .loading) ∧
      loads.plant.roll? h0 = some (roll .placed (.stop 6)) ∧ loads.plant.sched.queue.length ≤ 16 ∧ still loads) := by decide +kernel
/-- The arm of a module surveyed again: `st`, `r` and the reading `on`. -/
def backArm (st : ArmState) (r : RollRef) (on : Bool) : State := sense (.armLoaded 1 .a) (.level on)
  (onStand (fun s => s.setArm .a fun a => { a with state := st, roll := r }) base)
/-- The same statement: an arm that reads clear, one with a record or EMPTY that reads loaded, with room and without; and an
arm-loaded input that differs from its held reading. -/
theorem wit_ModulesAnswerOrAreLost_arms :
    let filled (s : State) : State := s.modPlant fun p => { p with
      rolls := p.rolls.map fun _ => { gen := 0, roll := some (roll .placed (.stop 9)) } }
    let room (s : State) : Bool := (s.plant.createRoll (unknownRoll s.plant.core .mounted (.arm 1 .a))).isSome
    let shows (s : State) : Prop := s.plant.sensorHeld 3 = false ∧ s.plant.armLoaded 1 .a = true
    (base.plant.standCfg 1).map (·.standStop) = some 3 ∧
    (backArm .run (.record h0) false).plant.armLoaded 1 .a = false ∧
    (shows (backArm .run (.record h0) true) ∧
      ((backArm .run (.record h0) true).plant.arm? 1 .a).map (fun a => (a.state, a.roll)) = some (.run, .record h0)) ∧
    (shows (filled (backArm .run .unrecorded true)) ∧ room (filled (backArm .run .unrecorded true)) = false ∧
      ((backArm .run .unrecorded true).plant.arm? 1 .a).map (·.roll) = some .unrecorded) ∧
    (shows (backArm .empty .none true) ∧ room (backArm .empty .none true) = true ∧
      room (filled (backArm .empty .none true)) = false ∧
      ((backArm .empty .none true).plant.arm? 1 .a).map (fun a => (a.state, a.roll)) = some (.empty, .none)) ∧
    (base.plant.pointOf 3 4 = some (.armLoaded 1 .a) ∧ base.plant.lineRun = true ∧
      ((backArm .run (.record h0) true).plant.module? 3).map (fun x => inputOn (x.input 4)) = some true ∧
      (base.plant.module? 3).map (fun x => inputOn (x.input 4)) = some false) := by decide +kernel
/-- R19, R188: an arm that has a roll and reads clear, before and after its module was lost, stays as it is. -/
theorem test_arm_back_clear : (backArm .run (.record h0) false).armBack 1 .a = backArm .run (.record h0) false := by
  decide +kernel
theorem wit_SectionsFollowSensorsAndTags :
    let b := onSection 4 (fun x => { x with state := .blocked }) (sense (.occupancy 4) (.level true) base)
    let m := onCart (fun k => { k with state := .manual, pos := some (.sec 4), held := [4] })
      (onSection 4 (fun x => { x with state := .occupied 1 }) b)
    let f := sense (.occupancy 4) (.level true) base
    ((∃ t, base.Fires (.occupancy 4) (.level true) t) ∧ (base.plant.section? 4).map (·.state) = some .free ∧
      base.plant.someCartExpected 4 = false) ∧
    ((∃ t, moving.Fires (.occupancy 2) (.level true) t) ∧ (moving.plant.section? 2).map (·.state) = some (.reserved 1)) ∧
    ((∃ t, b.Fires (.occupancy 4) (.level false) t) ∧ (b.plant.section? 4).map (·.state) = some .blocked ∧
      b.plant.someCartExpected 4 = false) ∧
    ((∃ t, m.Fires (.occupancy 4) (.level false) t) ∧ (m.plant.section? 4).map (·.state) = some (.occupied 1) ∧
      (m.plant.cart? 1).map (·.state) = some .manual) ∧
    ((∃ t, f.Fires (.occupancy 4) (.level false) t) ∧ (f.plant.section? 4).map (·.state) = some .free) ∧
    ((∃ t, moving.Fires (.sectionTag 2) (.tag 1 false false) t) ∧ moving.plant.cart? 1 = some onTheWay) ∧
    ((∃ t, base.Fires (.sectionTag 4) (.tag 2 false true) t) ∧ base.plant.cart? 2 = none) ∧
    ((∃ t, m.Fires (.sectionTag 3) (.tag 1 false true) t) ∧ (m.plant.section? 3).map (·.state) = some .free) ∧
    -- the arbiter: on the ring, about to start, turning in, and the sections it asks for
    (let starts : Cart := { onTheWay with state := .starting, pos := some (.stop 8), held := [] }
     let start := onCart (fun _ => starts) base
     let turns : Cart := { onTheWay with pos := some (.sec 3), held := [3] }
     let turn := onStop 3 (fun y => { y with point := .arrive 1 }) (onSection 3 (fun y => { y with state := .occupied 1 })
       (onCart (fun _ => turns) base))
     (moving.plant.wants onTheWay = some 3 ∧ (moving.plant.section? 3).map (·.state) = some .free ∧
       moving.plant.stopLost 3 = false ∧ onTheWay.held.getLast? = some 2 ∧ moving.plant.traffic.carts = [onTheWay] ∧
       moving.plant.cart? 1 = some onTheWay ∧ moving.plant.traffic.sections.length ≤ 16 ∧
       moving.plant.stopSec 3 = some 3) ∧
     (start.plant.wants starts = some 1 ∧ start.plant.stopSec 8 = some 1 ∧ start.plant.cart? 1 = some starts ∧
       (start.plant.section? 1).map (·.state) = some .free) ∧
     (turn.plant.turningIn turns 3 = true ∧ turn.plant.stopLost 3 = false ∧ turn.plant.wants turns = none) ∧
     ({ turns with state := .fault } : Cart).state ≠ .running ∧ ({ turns with state := .held } : Cart).state = .held ∧
     ({ turns with held := [1] } : Cart).held.length < 2 ∧ base.plant.traffic.carts ≠ [] ∧
       (∀ k ∈ base.plant.traffic.carts, base.plant.wants k = none)) :=
  ⟨⟨fires (by decide +kernel), by decide +kernel⟩, ⟨fires (by decide +kernel), by decide +kernel⟩,
    ⟨fires (by decide +kernel), by decide +kernel⟩, ⟨fires (by decide +kernel), by decide +kernel⟩,
    ⟨fires (by decide +kernel), by decide +kernel⟩, ⟨fires (by decide +kernel), by decide +kernel⟩,
    ⟨fires (by decide +kernel), by decide +kernel⟩, ⟨fires (by decide +kernel), by decide +kernel⟩, by decide +kernel⟩
/-- The same statement: tags read where the section is held, BLOCKED or FREE and another cart's. -/
theorem wit_SectionsFollowSensorsAndTags_tags :
    let second : Cart := { onTheWay with num := 2, state := .idle, pos := none, leg := none, held := [], transit := none }
    let two := moving.modPlant fun p => { p with traffic := { p.traffic with carts := [onTheWay, second] } }
    let broken := onCart (fun k => { k with state := .fault }) moving
    let known := onCart (fun k => { k with pos := some (.sec 4) }) base
    let blocked := onSection 4 (fun x => { x with state := .blocked }) base
    let state (s : State) (n : Nat) : Option SectionState := (s.plant.section? n).map (·.state)
    ((∃ t, moving.Fires (.sectionTag 1) (.tag 1 false true) t) ∧ state moving 1 = some (.occupied 1) ∧
      onTheWay.state ≠ .manual) ∧
    ((∃ t, broken.Fires (.sectionTag 2) (.tag 1 false false) t) ∧ state broken 2 = some (.reserved 1) ∧
      broken.plant.cart? 1 = some { onTheWay with state := .fault }) ∧
    ((∃ t, moving.Fires (.sectionTag 2) (.tag 2 false false) t) ∧ state moving 2 = some (.reserved 1) ∧
      moving.plant.cart? 1 = some onTheWay ∧ onTheWay.task = none ∧ moving.plant.cart? 2 = none) ∧
    ((∃ t, two.Fires (.sectionTag 1) (.tag 2 false false) t) ∧ state two 1 = some (.occupied 1) ∧
      two.plant.cart? 1 = some onTheWay ∧ two.plant.cart? 2 = some second ∧ second.expectedIn 1 = false) ∧
    ((∃ t, blocked.Fires (.sectionTag 4) (.tag 2 false false) t) ∧ state blocked 4 = some .blocked ∧
      blocked.plant.cart? 2 = none) ∧
    ((∃ t, blocked.Fires (.sectionTag 4) (.tag 1 false false) t) ∧
      (blocked.plant.cart? 1).map (fun k => (k.state, k.task, k.expectedIn 4)) = some (.parked, none, false)) ∧
    ((∃ t, base.Fires (.sectionTag 4) (.tag 1 false false) t) ∧ state base 4 = some .free ∧
      (base.plant.cart? 1).map (fun k => (k.state, k.task, k.expectedIn 4)) = some (.parked, none, false)) ∧
    (∃ t, known.Fires (.sectionTag 4) (.tag 1 false false) t) ∧ state known 4 = some .free ∧
      (known.plant.cart? 1).map (·.expectedIn 4) = some true :=
  ⟨⟨fires (by decide +kernel), by decide +kernel⟩, ⟨fires (by decide +kernel), by decide +kernel⟩,
    ⟨fires (by decide +kernel), by decide +kernel⟩, ⟨fires (by decide +kernel), by decide +kernel⟩,
    ⟨fires (by decide +kernel), by decide +kernel⟩, ⟨fires (by decide +kernel), by decide +kernel⟩,
    ⟨fires (by decide +kernel), by decide +kernel⟩, fires (by decide +kernel), by decide +kernel⟩
/-- The same statement: read in MANUAL in a section that is FREE, its own, BLOCKED or another cart's, and in MANUAL already. -/
theorem wit_SectionsFollowSensorsAndTags_manual :
    let second : Cart := { onTheWay with num := 2, state := .idle, pos := none, leg := none, held := [], transit := none }
    let two := moving.modPlant fun p => { p with traffic := { p.traffic with carts := [onTheWay, second] } }
    let hand := two.modPlant fun p => p.modCart 2 fun k => { k with state := .manual }
    let blocked := onSection 4 (fun x => { x with state := .blocked }) base
    let own := onCart (fun k => { k with state := .manual }) moving
    let state (s : State) (n : Nat) : Option SectionState := (s.plant.section? n).map (·.state)
    ((∃ t, base.Fires (.sectionTag 4) (.tag 1 true false) t) ∧ state base 4 = some .free ∧
      (base.plant.cart? 1).map (fun k => (k.state, k.task)) = some (.parked, none)) ∧
    ((∃ t, moving.Fires (.sectionTag 2) (.tag 1 true false) t) ∧ state moving 2 = some (.reserved 1) ∧
      moving.plant.cart? 1 = some onTheWay ∧ onTheWay.task = none ∧ 2 ∈ onTheWay.held ∧ onTheWay.held.Nodup) ∧
    ((∃ t, blocked.Fires (.sectionTag 4) (.tag 1 true false) t) ∧ state blocked 4 = some .blocked) ∧
    ((∃ t, own.Fires (.sectionTag 2) (.tag 1 false false) t) ∧ state own 2 = some (.reserved 1) ∧
      own.plant.cart? 1 = some { onTheWay with state := .manual }) ∧
    ((∃ t, two.Fires (.sectionTag 2) (.tag 2 true false) t) ∧ state two 2 = some (.reserved 1) ∧
      two.plant.cart? 1 = some onTheWay ∧ two.plant.cart? 2 = some second ∧ second.task = none) ∧
    (∃ t, hand.Fires (.sectionTag 1) (.tag 2 false false) t) ∧ state hand 1 = some (.occupied 1) ∧
      hand.plant.cart? 1 = some onTheWay ∧ (hand.plant.cart? 2).map (·.state) = some .manual :=
  ⟨⟨fires (by decide +kernel), by decide +kernel⟩, ⟨fires (by decide +kernel), by decide +kernel⟩,
    ⟨fires (by decide +kernel), by decide +kernel⟩, ⟨fires (by decide +kernel), by decide +kernel⟩,
    ⟨fires (by decide +kernel), by decide +kernel⟩, fires (by decide +kernel), by decide +kernel⟩
theorem wit_CartsArriveAndDepart :
    let kept : Cart := { onTheWay with queued := some { stop := 8, task := none } }
    let keeping := onCart (fun _ => kept) moving
    -- at slot 1: a cart in FAULT, loaded or not, a roll or not, and what the sensor shows
    let at1 (load : Option Handle) (here shown : Bool) : State :=
      (if shown then sense (.sensor 1) (.level true) else id) (onCart (fun k =>
        { k with state := .fault, pos := some (.stop 1), load := load })
        (onStop 8 (fun x => { x with cart := none, claim := none }) (onStop 1 (fun x => { x with cart := some 1 })
          (if here then rollAt 1 base else put 0 (roll .carried (.cart 1)) base))))
    let fits (load : Option Handle) (here shown : Bool) : Bool :=
      ((at1 load here shown).plant.cart? 1).map (fun k => (k.state, k.load, k.task)) == some (.fault, load, none) &&
      ((at1 load here shown).plant.stop? 1).map (fun y => (y.roll, y.cart)) ==
        some (if here then some h0 else none, some 1) && (at1 load here shown).plant.sensor 1 == shown &&
      (at1 load here shown).plant.stopKind 1 == some .slot && !(at1 load here shown).plant.inTask h0
    ((∃ t, moving.Fires (.stopTag 3) (.tag 1 false false) t) ∧ moving.plant.cart? 1 = some onTheWay ∧
      (moving.plant.stop? 3).map (fun x => (x.cart, x.claim)) = some (none, some 1) ∧ onTheWay.runningTo 3 = true ∧
      onTheWay.queued = none) ∧
    ((∃ t, keeping.Fires (.stopTag 3) (.tag 1 false false) t) ∧ keeping.plant.cart? 1 = some kept ∧
      (keeping.plant.stop? 3).map (fun x => (x.cart, x.claim)) = some (none, some 1) ∧ kept.runningTo 3 = true) ∧
    ((∃ t, moving.Fires (.stopTag 1) (.tag 1 false false) t) ∧ onTheWay.runningTo 1 = false ∧ onTheWay.task = none ∧
      (moving.plant.stop? 1).map (·.cart) = some none) ∧
    ((∃ t, base.Fires (.stopTag 8) (.tag 1 false true) t) ∧ (base.plant.cart? 1).map (·.pos) = some (some (.stop 8)) ∧
      (base.plant.stop? 8).map (·.transfer) = some none) ∧
    (∃ t, moving.Fires (.stopTag 1) (.tag 1 true false) t) ∧
    ((∃ t, (at1 none false false).Fires (.stopTag 1) (.tag 1 false false) t) ∧ fits none false false) ∧
    ((∃ t, (at1 none true false).Fires (.stopTag 1) (.tag 1 false true) t) ∧ fits none true false ∧
      (at1 none true false).plant.roll? h0 = some (roll .placed (.stop 1))) ∧
    ((∃ t, (at1 (some h0) false true).Fires (.stopTag 1) (.tag 1 false false) t) ∧ fits (some h0) false true ∧
      (at1 (some h0) false true).plant.roll? h0 = some (roll .carried (.cart 1))) ∧
    ((∃ t, (at1 (some h0) false false).Fires (.stopTag 1) (.tag 1 false false) t) ∧ fits (some h0) false false ∧
      noneCarries (at1 (some h0) false false) h0) ∧
    ((∃ t, (at1 none false false).Fires (.stopTag 1) (.tag 1 false true) t) ∧
      ((at1 none false false).plant.createRoll (unknownRoll 1000 .carried (.cart 1))).isSome = true) ∧
    (∃ t, leaving.Fires (.stopTag 8) (.gone 1) t) ∧
      leaving.plant.cart? 1 = some { onTheWay with pos := some (.stop 8), held := [1] } ∧
      leaving.plant.stopSec 8 = some 1 ∧ ({ onTheWay with pos := some (.stop 8), held := [1] } : Cart).boundFor 8 = false ∧
      (leaving.plant.stop? 8).isSome = true :=
  ⟨⟨fires (by decide +kernel), by decide +kernel⟩, ⟨fires (by decide +kernel), by decide +kernel⟩,
    ⟨fires (by decide +kernel), by decide +kernel⟩, ⟨fires (by decide +kernel), by decide +kernel⟩,
    fires (by decide +kernel), ⟨fires (by decide +kernel), by decide +kernel⟩,
    ⟨fires (by decide +kernel), by decide +kernel⟩, ⟨fires (by decide +kernel), by decide +kernel⟩,
    ⟨fires (by decide +kernel), by decide +kernel⟩, ⟨fires (by decide +kernel), by decide +kernel⟩,
    fires (by decide +kernel), by decide +kernel⟩
/-- The same statement: returns to AUTO at SCRAP, PARK and STAND stops, and of a cart still loaded; and what MANUAL keeps. -/
theorem wit_CartsArriveAndDepart_auto :
    -- in FAULT at stop x, loaded or not, an arm of the transfer named, and arm A as given
    let at_ (x : Nat) (load : Option Handle) (m : Option Arm) (a : ArmState) (r : RollRef) (s : State) : State :=
      onCart (fun k => { k with state := .fault, pos := some (.stop x), load := load, arm := m })
        (onStop 8 (fun y => { y with cart := none, claim := none }) (onStop x (fun y => { y with cart := some 1 })
          (onStand (fun st => { st with armA := { st.armA with state := a, roll := r } }) s)))
    let carried := put 0 (roll .carried (.cart 1)) base
    let mounted := put 0 (roll .mounted (.arm 1 .a)) base
    let butt := at_ 3 none (some .a) .butt (.record h0) (put 0 (roll .butt (.arm 1 .a)) base)
    let shown (on : Bool) (s : State) : State := sense (.armLoaded 1 .a) (.level on) s
    let scrap := sense (.sensor 7) (.level true) (at_ 7 (some h0) none .empty .none carried)
    let shipped := sense (.sensor 4) (.level true) (at_ 4 (some h0) none .empty .none (put 0 { roll .carried (.cart 1) with claim := .ship 1 }
      (onLink (fun l => { l with out := outRec .carrying }) base)))
    let empty := shown true (at_ 3 (some h0) (some .a) .empty .none carried)
    let fresh := shown true (at_ 3 none (some .a) .empty .none base)
    let gone := at_ 3 none (some .a) .mounted (.record h0) mounted
    let agrees := shown true (at_ 3 none (some .a) .mounted (.record h0) mounted)
    let unnamed := at_ 3 none none .empty .none base
    let cart (s : State) : Option (CartState × Option Pos × Option Handle × Option Arm) :=
      (s.plant.cart? 1).map fun k => (k.state, k.pos, k.load, k.arm)
    let arm1 (s : State) : Option (ArmState × RollRef) := (s.plant.arm? 1 .a).map fun a => (a.state, a.roll)
    ((∃ t, scrap.Fires (.stopTag 7) (.tag 1 false false) t) ∧ scrap.plant.stopKind 7 = some .scrap ∧
      scrap.plant.sensor 7 = true ∧ cart scrap = some (.fault, some (.stop 7), some h0, none) ∧
      scrap.plant.roll? h0 = some (roll .carried (.cart 1)) ∧ scrap.plant.inTask h0 = false ∧ noneCarries scrap h0) ∧
    ((∃ t, shipped.Fires (.stopTag 4) (.tag 1 false false) t) ∧ shipped.plant.stopKind 4 = some .out ∧
      shipped.plant.sensor 4 = true ∧ cart shipped = some (.fault, some (.stop 4), some h0, none) ∧
      shipped.plant.roll? h0 = some { roll .carried (.cart 1) with claim := .ship 1 } ∧
      (shipped.plant.carryingTo 4 h0).map (·.num) = some 1) ∧
    ((∃ t, (at_ 8 (some h0) none .empty .none carried).Fires (.stopTag 8) (.tag 1 false true) t) ∧
      base.plant.stopKind 8 = some .park ∧ (base.plant.stop? 8).map (·.roll) = some none) ∧
    ((∃ t, butt.Fires (.stopTag 3) (.tag 1 false true) t) ∧ arm1 butt = some (.butt, .record h0) ∧
      cart butt = some (.fault, some (.stop 3), none, some .a) ∧ butt.plant.armLoaded 1 .a = false ∧
      butt.plant.standOfStop 3 = some 1 ∧ butt.plant.roll? h0 = some (roll .butt (.arm 1 .a)) ∧
      butt.plant.inTask h0 = false) ∧
    ((∃ t, empty.Fires (.stopTag 3) (.tag 1 false false) t) ∧ arm1 empty = some (.empty, .none) ∧
      cart empty = some (.fault, some (.stop 3), some h0, some .a) ∧ empty.plant.armLoaded 1 .a = true) ∧
    ((∃ t, fresh.Fires (.stopTag 3) (.tag 1 false false) t) ∧ arm1 fresh = some (.empty, .none) ∧
      fresh.plant.armLoaded 1 .a = true ∧ (fresh.plant.createRoll (unknownRoll 1000 .mounted (.arm 1 .a))).isSome = true) ∧
    ((∃ t, gone.Fires (.stopTag 3) (.tag 1 false false) t) ∧ arm1 gone = some (.mounted, .record h0) ∧
      gone.plant.armLoaded 1 .a = false ∧ gone.plant.roll? h0 = some (roll .mounted (.arm 1 .a)) ∧ noneCarries gone h0) ∧
    ((∃ t, agrees.Fires (.stopTag 3) (.tag 1 false false) t) ∧ arm1 agrees = some (.mounted, .record h0) ∧
      agrees.plant.armLoaded 1 .a = true) ∧
    ((∃ t, unnamed.Fires (.stopTag 3) (.tag 1 false false) t) ∧ cart unnamed = some (.fault, some (.stop 3), none, none)) ∧
    onTheWay.held.Nodup ∧ moving.plant.heldUpToOccupied onTheWay = [1] :=
  ⟨⟨fires (by decide +kernel), by decide +kernel⟩, ⟨fires (by decide +kernel), by decide +kernel⟩, ⟨fires (by decide +kernel), by decide +kernel⟩,
    ⟨fires (by decide +kernel), by decide +kernel⟩, ⟨fires (by decide +kernel), by decide +kernel⟩,
    ⟨fires (by decide +kernel), by decide +kernel⟩, ⟨fires (by decide +kernel), by decide +kernel⟩,
    ⟨fires (by decide +kernel), by decide +kernel⟩, ⟨fires (by decide +kernel), by decide +kernel⟩, by decide +kernel⟩
/-- The legs of the next statement: given, refused, queued, replaced, kept and cancelled. -/
theorem wit_CartTimersExpire_legs :
    let k (st : CartState) (pos : Pos) (leg queued : Option Leg) (held : List Nat) : Cart :=
      { onTheWay with state := st, pos := some pos, leg := leg, queued := queued, held := held }
    let leg (x : Nat) : Option Leg := some { stop := x, task := none }
    let on (c : Cart) (s : State) : Plant := (onCart (fun _ => c) s).plant
    let answer (c : Cart) (x : Nat) : Option LegRefusal := (on c base).legRefusal c x
    let parked := k .parked (.stop 8) none none []
    let turns := k .running (.sec 3) (leg 3) none [3]
    let turning := onStop 3 (fun y => { y with point := .arrive 1 }) (onSection 3 (fun y => { y with state := .occupied 1 }) base)
    (answer (k .fault (.stop 8) none none []) 3 = some .cartUnavailable ∧ answer parked 41 = some .noStop ∧
      (onStop 3 (fun y => { y with claim := some 2 }) base).plant.legRefusal parked 3 = some .stopTaken ∧
      answer parked 3 = none ∧ answer parked 8 = none) ∧
    ((base.plant.modModule 2 fun m => { m with lost := true }).legRefusal parked 3 = some .stopLost) ∧
    answer (k .transfer (.stop 8) none (leg 1) []) 3 = none ∧ answer (k .running (.sec 1) none none [1]) 3 = none ∧
    answer (k .running (.sec 1) (leg 3) (leg 1) [1]) 3 = none ∧
    ((on turns turning).turningIn turns 3 = true ∧ (on turns turning).legRefusal turns 1 = none) ∧
    (answer (k .running (.sec 1) (leg 7) none [1, 2, 3]) 4 = none ∧ base.plant.stopSec 4 = some 2 ∧
      base.plant.turningIn (k .running (.sec 1) (leg 7) none [1, 2, 3]) 7 = false ∧
      ([1, 2, 3] : List Nat) = [1] ++ 2 :: [3] ∧ base.plant.stopLost 4 = false) ∧
    (answer (k .running (.sec 1) (leg 7) none [1]) 4 = none ∧ (2 : Nat) ∉ ([1] : List Nat)) ∧
    (k .starting (.stop 8) (leg 3) none [1]).state = .starting ∧ base.plant.parkStop 1 = some 8 ∧
    (k .held (.sec 1) (leg 3) none [1]).pos = some (.sec 1) ∧ (base.plant.stop? 8).isSome = true := by
  decide +kernel
/-- The same statement: start warnings where the wait began, carts that are free, and cancels that leave one free. -/
theorem wit_CartTimersExpire_free :
    let away : Cart := { onTheWay with state := .starting, startWait := some 1000, startsFrom := some 8, transit := none }
    let leg (x n : Nat) : Leg := { stop := x, task := some n }
    let home : Cart := { onTheWay with leg := some { stop := 8, task := none } }
    let dropped : Cart := { onTheWay with leg := some (leg 3 1) }
    let turns : Cart := { dropped with pos := some (.sec 3), held := [3] }
    let free (k : Cart) : Bool := (still k).plant.isFree k
    ((still away).plant.cart? 1 = some away ∧ away.pos ≠ some (.stop 8) ∧ ((still away).plant.stop? 8).isSome = true ∧
      reached (still away).plant.clock.ms 1000 = true) ∧
    (free home = true ∧ free dropped = true ∧ free onTheWay = false ∧ free { dropped with task := some 1 } = false ∧
      free { dropped with queued := some { stop := 8, task := none } } = true ∧
      free { onTheWay with queued := some (leg 1 2) } = true ∧ free { home with pending := some .stow } = false) ∧
    ((still dropped).plant.cart? 1 = some dropped ∧ dropped.task = none ∧ dropped.pending = none ∧ dropped.noRecord = false ∧
      dropped.queued = none ∧ turns.queued = none ∧ turns.leg = some (leg 3 1)) := by decide +kernel
theorem wit_CartTimersExpire :
    let a : Cart := { onTheWay with state := .starting, pos := some (.stop 8), startWait := some 1000, transit := none }
    let b : Cart := { onTheWay with state := .transfer, pos := some (.stop 8), transfer := some 1000, transit := none }
    let d : Cart := { onTheWay with task := some 1 }
    let serving (kind : TaskKind) (r : Roll) (s : State) : State := put 0 r (s.modPlant fun p =>
      { p with sched := { p.sched with queue := [{ task 1 h0 with kind := kind, cart := some 1 }] } })
    let bare (p : Plant) : Bool := p.traffic.stops.all (fun y => y.pending == none) &&
      p.traffic.carts.all (fun y => y.pending == none) && p.splice.stands.all (fun y => y.pendingUnload == none)
    let u := serving .feedPrep (roll .placed (.stop 6)) (still d)
    let v := serving .stow (roll .carried (.cart 1)) (still { d with load := some h0 })
    let w := serving .stow (roll .placed (.stop 6)) (onStop 6 (fun y => { y with roll := some h0 }) (still d))
    ((still a).plant.cart? 1 = some a ∧ reached (still a).plant.clock.ms 1000 = true ∧ a.transit = none) ∧
    ((still onTheWay).plant.cart? 1 = some onTheWay ∧ onTheWay.transit = some 1000 ∧ onTheWay.task = none ∧
      onTheWay.startWait = none ∧ onTheWay.transfer = none) ∧
    ((still b).plant.cart? 1 = some b ∧ b.task = none) ∧
    (u.plant.cart? 1 = some d ∧ (u.plant.task? 1).map (fun o => (o.cart, o.roll, o.kind)) = some (some 1, h0, .feedPrep) ∧
      u.plant.roll? h0 = some (roll .placed (.stop 6)) ∧ bare u.plant) ∧
    (v.plant.cart? 1 = some { d with load := some h0 } ∧ v.plant.roll? h0 = some (roll .carried (.cart 1)) ∧
      bare v.plant) ∧
    (w.plant.cart? 1 = some d ∧ w.plant.roll? h0 = some (roll .placed (.stop 6)) ∧ bare w.plant ∧
      (w.plant.stop? 6).map (·.roll) = some (some h0) ∧ w.plant.sched.queue.length ≤ 16 ∧
      ∀ b ∈ w.plant.sched.queue, b.roll = h0 → b.num = 1) ∧
    ((at_ 999 0 (still a)).plant.cart? 1 = some a ∧ reached (at_ 999 0 (still a)).plant.clock.ms 1000 = false) := by
  decide +kernel
theorem wit_RollsAtStopsAndPrepButtons :
    let on (x : Nat) (s : State) := sense (.sensor x) (.level true) s
    let on1 := on 1 (rollAt 1 base)
    let p := rollAt 2 base
    let r := put 0 { roll .placed (.stop 2) with claim := .stand 1 } (rollAt 2 base)
    let due (c : Claim) (i : Inbound) : State := put 0 { roll .expected (.stop 5) with claim := c }
      (onStop 5 (fun y => { y with expected := some h0 }) (onLink (fun l => { l with inb := i }) base))
    let out := on 4 (put 0 (roll .placed (.stop 4)) (shipping .conveying))
    let claimed (c : Claim) : State := put 0 { roll .placed (.stop 1) with claim := c } on1
    let tasked := on1.modPlant fun p => { p with sched := { p.sched with queue := [{ task 1 h0 with src := .stop 1 }] } }
    let lift := cartAt1 .transfer none true (some .toCart) on1
    let prepared := loweringAt 2 (.stand 1) true base
    let shipped := loweringAt 4 (.ship 1) false (onLink (fun l => { l with out := outRec .carrying }) base)
    let scrapped := loweringAt 7 .none false base
    let lowers (x : Nat) (s : State) (r : Roll) : Bool :=
      (s.plant.cart? 1).map (fun k => (k.state, k.loadFlag, k.load, k.queued, k.task)) ==
        some (.transfer, false, some h0, none, none) &&
      (s.plant.stop? x).map (fun y => (y.transfer, y.cart)) == some (some .toStop, some 1) && s.plant.roll? h0 == some r &&
      s.plant.sched.queue.isEmpty && s.plant.traffic.stops.all (·.pending.isNone) &&
      s.plant.traffic.carts.all (·.pending.isNone) && s.plant.splice.stands.all (·.pendingUnload.isNone)
    ((∃ t h q, base.Fires (.sensor 1) (.level true) t ∧
        t.plant.createRoll (unknownRoll t.plant.core .placed (.stop 1)) = some (h, q)) ∧
      base.plant.stopKind 1 = some .slot ∧ base.plant.sensorHeld 1 = false ∧
      (base.plant.stop? 1).map (fun x => (x.roll, x.expected)) = some (none, none)) ∧
    ((∃ t, base.Fires (.sensor 6) (.level true) t) ∧ base.plant.stopKind 6 = some .dock ∧ base.plant.sensorHeld 6 = false ∧
      (base.plant.createRoll (unknownRoll 1000 .placed (.stop 6))).map (·.1) = some h0 ∧ base.plant.inTask h0 = false ∧
      base.plant.slotBound 6 = false) ∧
    ((∃ t, (due .none Inbound.idle).Fires (.sensor 5) (.level true) t) ∧
      (due .none Inbound.idle).plant.expectingLink h0 = none ∧
      (due .none Inbound.idle).plant.roll? h0 = some (roll .expected (.stop 5))) ∧
    ((∃ t, (due (.stand 1) inRec).Fires (.sensor 5) (.level true) t) ∧
      (due (.stand 1) inRec).plant.expectingLink h0 = some (linkRec Outbound.idle inRec) ∧
      (due (.stand 1) inRec).plant.roll? h0 = some { roll .expected (.stop 5) with claim := .stand 1 }) ∧
    ((∃ t, (due .none { inRec with claimed := false }).Fires (.sensor 5) (.level true) t) ∧
      (due .none { inRec with claimed := false }).plant.expectingLink h0 =
        some (linkRec Outbound.idle { inRec with claimed := false })) ∧
    ((∃ t, out.Fires (.sensor 4) (.level false) t) ∧ out.plant.sensorHeld 4 = false ∧
      out.plant.conveyingAt 4 = some (linkRec (outRec .conveying) Inbound.idle) ∧
      (out.plant.stop? 4).map (·.roll) = some (some h0) ∧ out.plant.roll? h0 = some (roll .placed (.stop 4))) ∧
    ((∃ t, on1.Fires (.sensor 1) (.level false) t) ∧ on1.plant.sensorHeld 1 = false ∧ on1.plant.conveyingAt 1 = none ∧
      (on1.plant.stop? 1).map (·.roll) = some (some h0) ∧ on1.plant.roll? h0 = some (roll .placed (.stop 1)) ∧
      on1.plant.inTask h0 = false ∧ noneCarries on1 h0) ∧
    ((∃ t, (claimed (.hold 7 3)).Fires (.sensor 1) (.level false) t) ∧
      (claimed (.hold 7 3)).plant.roll? h0 = some { roll .placed (.stop 1) with claim := .hold 7 3 } ∧
      noneCarries (claimed (.hold 7 3)) h0) ∧
    ((∃ t, (onLink (fun l => { l with out := outRec .carrying }) (claimed (.ship 1))).Fires (.sensor 1) (.level false) t) ∧
      (claimed (.ship 1)).plant.roll? h0 = some { roll .placed (.stop 1) with claim := .ship 1 } ∧
      carriesAlone (onLink (fun l => { l with out := outRec .carrying }) (claimed (.ship 1))) h0 ∧
      noneCarries (onLink (fun l => { l with out := outRec .asking }) (claimed (.ship 1))) h0) ∧
    ((∃ t, tasked.Fires (.sensor 1) (.level false) t) ∧
      (tasked.plant.sched.queue.find? (·.roll == h0)).map (fun o => (o.kind, o.cart, tasked.plant.task? o.num == some o)) =
        some (.stow, none, true) ∧ (∀ y ∈ tasked.plant.traffic.stops, y.pending = none) ∧ noneCarries tasked h0) ∧
    ((cartAt1 .idle none false none on1).plant.sensor 1 = true ∧
      ((cartAt1 .idle none false none on1).plant.cart? 1).map (fun k => (k.state, k.pos, k.loadFlag)) =
        some (.idle, some (.stop 1), false)) ∧
    ((∃ t, lift.Fires (.sensor 1) (.level false) t) ∧
      (lift.plant.cart? 1).map (fun k => (k.state, k.loadFlag, k.queued)) = some (.transfer, true, none) ∧
      (lift.plant.stop? 1).map (fun y => (y.transfer, y.cart, y.roll)) = some (some .toCart, some 1, some h0)) ∧
    ((∃ t, lowering.Fires (.sensor 1) (.level true) t ∧ t.plant.sensor 1 = true) ∧
      lowers 1 lowering (roll .carried (.cart 1)) = true ∧ (lowering.plant.carryingTo 1 h0).isNone = true) ∧
    ((∃ t, prepared.Fires (.sensor 2) (.level true) t ∧ t.plant.sensor 2 = true) ∧ prepared.plant.stopKind 2 = some .prep ∧
      lowers 2 prepared { roll .carried (.cart 1) with claim := .stand 1, prepared := true } = true ∧
      (prepared.plant.carryingTo 2 h0).isNone = true) ∧
    ((∃ t, shipped.Fires (.sensor 4) (.level true) t ∧ t.plant.sensor 4 = true) ∧ shipped.plant.stopKind 4 = some .out ∧
      lowers 4 shipped { roll .carried (.cart 1) with claim := .ship 1 } = true ∧
      (shipped.plant.carryingTo 4 h0).map (fun l => (l.num, l.out.caller, l.out.callNo)) = some (1, 7, 3)) ∧
    ((∃ t, scrapped.Fires (.sensor 7) (.level true) t ∧ t.plant.sensor 7 = true) ∧ scrapped.plant.stopKind 7 = some .scrap ∧
      lowers 7 scrapped (roll .carried (.cart 1)) = true ∧ (scrapped.plant.stop? 7).map (·.roll) = some none ∧
      noneCarries scrapped h0) ∧
    (p.Button (.confirm 2) ∧ p.Button (.reject 2) ∧ p.plant.stopKind 2 = some .prep ∧
      (p.plant.stop? 2).map (fun x => (x.roll, x.transfer)) = some (some h0, none) ∧
      p.plant.roll? h0 = some (roll .placed (.stop 2)) ∧ p.plant.inTask h0 = false ∧ p.plant.sched.queue.length < 16) ∧
    r.Button (.confirm 2) ∧ r.plant.roll? h0 = some { roll .placed (.stop 2) with claim := .stand 1 } ∧
    -- inputs dropped, and a reject in place of a waiting task
    (let queued (k : TaskKind) (s : State) : State := s.modPlant fun q => { q with sched := { q.sched with
       queue := [{ task 1 h0 with kind := k, src := .stop 2 }] } }
     let rejected := put 0 { roll .placed (.stop 2) with rejected := true } p
     (base.Button (.confirm 2) ∧ base.Button (.reject 2) ∧ (base.plant.stop? 2).map (·.roll) = some none) ∧
     (((onStop 2 (fun y => { y with transfer := some .toCart }) p).plant.stop? 2).map (fun y => (y.roll, y.transfer)) =
       some (some h0, some .toCart)) ∧
     (∃ o ∈ (queued .feedMount p).plant.sched.queue, o.roll = h0 ∧ o.kind ∈ [TaskKind.feedMount, .stow]) ∧
     rejected.plant.roll? h0 = some { roll .placed (.stop 2) with rejected := true } ∧
     (∃ o ∈ (queued .reject rejected).plant.sched.queue, o.roll = h0 ∧ o.kind ∈ [TaskKind.reject]) ∧
     ((queued .stow p).plant.sched.queue.find? (·.roll == h0)).map (fun o => (o.kind, o.state, o.cart)) =
       some (.stow, .waiting, none) ∧ (queued .stow p).plant.sched.queue.length ≤ 16 ∧
     (∀ o ∈ (queued .stow p).plant.sched.queue, (queued .stow p).plant.task? o.num = some o) ∧
     (∀ y ∈ p.plant.traffic.stops, y.pending = none) ∧ (∀ y ∈ p.plant.traffic.carts, y.pending = none) ∧
     ∀ y ∈ p.plant.splice.stands, y.pendingUnload = none) := by
  refine ⟨⟨?_, by decide +kernel⟩, ⟨fires (by decide +kernel), by decide +kernel⟩,
    ⟨fires (by decide +kernel), by decide +kernel⟩, ⟨fires (by decide +kernel), by decide +kernel⟩,
    ⟨fires (by decide +kernel), by decide +kernel⟩, ⟨fires (by decide +kernel), by decide +kernel⟩,
    ⟨fires (by decide +kernel), by decide +kernel⟩, ⟨fires (by decide +kernel), by decide +kernel⟩,
    ⟨fires (by decide +kernel), by decide +kernel⟩, ⟨fires (by decide +kernel), by decide +kernel⟩, by decide +kernel,
    ⟨fires (by decide +kernel), by decide +kernel⟩,
    ⟨fires_showing 2 2 (P := fun p => p.sensor 1) (by decide +kernel) (by decide +kernel) (by decide +kernel), by decide +kernel⟩,
    ⟨fires_showing 2 9 (P := fun p => p.sensor 2) (by decide +kernel) (by decide +kernel) (by decide +kernel), by decide +kernel⟩,
    ⟨fires_showing 2 23 (P := fun p => p.sensor 4) (by decide +kernel) (by decide +kernel) (by decide +kernel), by decide +kernel⟩,
    ⟨fires_showing 2 44 (P := fun p => p.sensor 7) (by decide +kernel) (by decide +kernel) (by decide +kernel), by decide +kernel⟩,
    ⟨button (by decide +kernel), button (by decide +kernel), by decide +kernel⟩, button (by decide +kernel), by decide +kernel,
    ⟨button (by decide +kernel), button (by decide +kernel), by decide +kernel⟩, by decide +kernel⟩
  · obtain ⟨t, ht⟩ := fires (s := base) (k := .sensor 1) (v := .level true) (by decide +kernel)
    have ht' := ht
    obtain ⟨_, m, pt, r, hw, _, _, _, rfl⟩ := ht'
    obtain ⟨rfl, rfl⟩ : m = 2 ∧ pt = 2 := by
      have : base.plant.wiring (.sensor 1) = some (2, 2) := by decide +kernel
      rw [this] at hw; cases hw; exact ⟨rfl, rfl⟩
    obtain ⟨h, q, hq⟩ := made (p := base.plant.setInput 2 2 (.level true))
      (r := unknownRoll (base.plant.setInput 2 2 (.level true)).core .placed (.stop 1)) (by decide +kernel)
    exact ⟨_, h, q, ht, hq⟩

/-! ### Witnesses: stands, the splice and web measurement -/

def est (m : EstMode) : Estimator :=
  { mode := m, dFilt := some 5000, sq := some 25000000, rejects := 3, suspect := false, lastCap := some 0, lastTime := 0,
    coastFrom := none }
def arm (st : ArmState) (r : RollRef) (m : EstMode) : ArmRec :=
  { state := st, roll := r, brake := 300, drive := 0, lastPulse := some 0, stopped := false, est := est m, surveyPulses := 0 }
def stand (o : Option Arm) (ph : Phase) (a b : ArmRec) : Stand :=
  { Stand.reset 1 with
    runArm := o, phase := ph, armA := a, armB := b, fireTime := none, pastePos := some 0, verifyStart := some 0 }
def runA : ArmRec := arm .run (.record h0) .measuring
def readyB : ArmRec := arm .ready (.record h1) .none
/-- Arm A runs record 0, arm B holds record 1; the web stands at `pos` um and runs at 12,000 mm/s. -/
def spinning (st : Stand) (pos : Nat) (s : State) : State :=
  put 0 (roll .run (.arm 1 .a)) (put 1 (roll .ready (.arm 1 .b)) (onWeb (fun w => { w with w := BitVec.ofNat 64 (65536 * pos), v := 12000 })
    (onStand (fun _ => st) s)))
def pressOn (s : State) : State := s.modPlant fun p => { p with pressRun := true }
def spun (ph : Phase) (t : Option Ticks) : Stand :=
  stand (some .a) ph runA { arm .spin (.record h1) .none with lastPulse := t }

theorem wit_ReadyConfirmsAreTaken :
    let m := arm .mounted (.record h0) .none
    let s (o : Option Arm) (a : ArmRec) : State :=
      put 0 (roll .mounted (.arm 1 .a)) (onStand (fun _ => stand o .none a readyB) base)
    (s none m).Button (.ready 1 .a) ∧ (s none m).plant.image.isLine = true ∧
      (s none m).plant.stand? 1 = some (stand none .none m readyB) ∧
      (s none m).plant.roll? h0 = some (roll .mounted (.arm 1 .a)) ∧ (s none m).plant.gradeCfg 0 = some grade ∧
      (s none m).plant.standCfg 1 = some standCfg ∧ 0 < standCfg.torqueMax ∧
    (s (some .b) m).Button (.ready 1 .a) ∧ (s (some .b) m).plant.stand? 1 = some (stand (some .b) .none m readyB) ∧
    (s (some .a) runA).Button (.ready 1 .a) ∧ (s (some .a) runA).plant.stand? 1 = some (stand (some .a) .none runA readyB) ∧
      runA.state ≠ .mounted :=
  by
    intro m s
    have mine : (s none m).Button (.ready 1 .a) := button (by decide +kernel)
    have other : (s (some .b) m).Button (.ready 1 .a) := button (by decide +kernel)
    have running : (s (some .a) runA).Button (.ready 1 .a) := button (by decide +kernel)
    and_intros <;> first | assumption | decide +kernel
theorem wit_RollsComeOntoAndLeaveArms :
    let full : State := base.modPlant fun p => { p with rolls := p.rolls.map fun _ => { gen := 0, roll := some (roll .butt (.arm 1 .a)) } }
    let shown (s : State) : State := sense (.armLoaded 1 .a) (.level true) s
    let b (r : RollRef) : Stand := stand none .none (arm .butt r .none) ArmRec.reset
    let u (c : Claim) (s : State) : State :=
      shown (put 0 { roll .butt (.arm 1 .a) with claim := c } (onStand (fun _ => b (.record h0)) s))
    let tasked := u .none (base.modPlant fun p => { p with sched := { p.sched with
      queue := [{ task 1 h0 with kind := .unload, src := .arm 1 .a }] } })
    let runs (ph : Phase) : State := shown (spinning (spun ph none) 0 base)
    let spins (ph : Phase) : State := shown (spinning
      (stand (some .b) ph (arm .spin (.record h1) .none) { runA with roll := .record h0 }) 0 base)
    let cart (load : Option Handle) (flag : Bool) (d : TransferDir) (s : State) : State :=
      onCart (fun k => { k with state := .transfer, pos := some (.stop 3), load := load, loadFlag := flag, arm := some .a })
        (onStop 3 (fun y => { y with cart := some 1, transfer := some d }) s)
    let onto (flag : Bool) := cart (some h0) flag .toStop (put 0 (roll .carried (.cart 1)) base)
    ((∃ t, base.Fires (.armLoaded 1 .a) (.level true) t) ∧ base.plant.stand? 1 = some (Stand.reset 1) ∧
      base.plant.standCfg 1 = some standCfg ∧ base.plant.sensorHeld 3 = false ∧ base.plant.image.isLine = true ∧
      (base.plant.createRoll (unknownRoll 1000 .mounted (.arm 1 .a))).isSome = true) ∧
    ((∃ t, full.Fires (.armLoaded 1 .a) (.level true) t) ∧ full.plant.stand? 1 = some (Stand.reset 1) ∧
      ∀ y ∈ full.plant.rolls, y.roll.isSome = true) ∧
    ((∃ t, (shown (onStand (fun _ => b .unrecorded) base)).Fires (.armLoaded 1 .a) (.level false) t) ∧
      (shown (onStand (fun _ => b .unrecorded) base)).plant.stand? 1 = some (b .unrecorded)) ∧
    ((∃ t, (u .none base).Fires (.armLoaded 1 .a) (.level false) t) ∧ (u .none base).plant.stand? 1 = some (b (.record h0)) ∧
      (u .none base).plant.sensorHeld 3 = false ∧ (u .none base).plant.roll? h0 = some (roll .butt (.arm 1 .a)) ∧
      (u .none base).plant.inTask h0 = false ∧ noneCarries (u .none base) h0) ∧
    ((∃ t, (u (.hold 7 3) base).Fires (.armLoaded 1 .a) (.level false) t) ∧
      (u (.hold 7 3) base).plant.roll? h0 = some { roll .butt (.arm 1 .a) with claim := .hold 7 3 } ∧
      noneCarries (u (.hold 7 3) base) h0) ∧
    ((∃ t, (u (.ship 1) (onLink (fun l => { l with out := outRec .carrying }) base)).Fires (.armLoaded 1 .a) (.level false) t) ∧
      ((u (.ship 1) (onLink (fun l => { l with out := outRec .carrying }) base)).plant.link? 1).map
        (fun l => (l.out.roll, l.out.state)) = some (some h0, .carrying) ∧
      carriesAlone (u (.ship 1) (onLink (fun l => { l with out := outRec .carrying }) base)) h0) ∧
    ((∃ t, tasked.Fires (.armLoaded 1 .a) (.level false) t) ∧
      (tasked.plant.sched.queue.find? (·.roll == h0)).map (fun o => (o.kind, o.cart, tasked.plant.task? o.num == some o)) =
        some (.unload, none, true) ∧ (∀ y ∈ tasked.plant.traffic.stops, y.pending = none) ∧ noneCarries tasked h0 ∧
      ∀ y ∈ tasked.plant.splice.stands, y.pendingUnload = none) ∧
    (((∃ t, (runs .verify).Fires (.armLoaded 1 .a) (.level false) t) ∧
        ∃ t, (runs .armed).Fires (.armLoaded 1 .a) (.level false) t) ∧
      (∃ t, (runs .pasted).Fires (.armLoaded 1 .a) (.level false) t ∧ t.plant.webPresent 1 = false) ∧
      (∃ t, (sense (.web 1) (.level true) (runs .pasted)).Fires (.armLoaded 1 .a) (.level false) t ∧
        t.plant.webPresent 1 = true) ∧
      (runs .pasted).plant.stand? 1 = some (spun .pasted none) ∧
      (runs .pasted).plant.roll? h0 = some (roll .run (.arm 1 .a)) ∧ (runs .pasted).plant.inTask h0 = false ∧
      noneCarries (runs .pasted) h0) ∧
    (((∃ t, (spins .armed).Fires (.armLoaded 1 .a) (.level false) t) ∧
        ∃ t, (spins .pasted).Fires (.armLoaded 1 .a) (.level false) t) ∧
      ((spins .pasted).plant.stand? 1).map (fun st => (st.armA.state, st.armB.state, st.runArm)) =
        some (.spin, .run, some .b) ∧ ((spins .pasted).plant.roll? h1).isSome = true ∧ noneCarries (spins .pasted) h1) ∧
    ((∃ t, (onto false).Fires (.armLoaded 1 .a) (.level true) t ∧ t.plant.armLoaded 1 .a = true) ∧
      (onto false).plant.standOfStop 3 = some 1 ∧ (onto false).plant.roll? h0 = some (roll .carried (.cart 1)) ∧
      ((onto false).plant.stop? 3).map (fun y => (y.cart, y.transfer, y.roll)) = some (some 1, some .toStop, none) ∧
      (∀ y ∈ (onto false).plant.traffic.carts, y.pending = none)) ∧
    (∃ t, (cart none true .toCart (u .none base)).Fires (.armLoaded 1 .a) (.level false) t) ∧
      ((cart none true .toCart (u .none base)).plant.cart? 1).map (fun k => (k.state, k.arm, k.loadFlag, k.queued)) =
        some (.transfer, some .a, true, none) := by
  refine ⟨⟨fires (by decide +kernel), by decide +kernel⟩, ⟨fires (by decide +kernel), by decide +kernel⟩,
    ⟨fires (by decide +kernel), by decide +kernel⟩, ⟨fires (by decide +kernel), by decide +kernel⟩,
    ⟨fires (by decide +kernel), by decide +kernel⟩, ⟨fires (by decide +kernel), by decide +kernel⟩,
    ⟨fires (by decide +kernel), by decide +kernel⟩,
    ⟨⟨fires (by decide +kernel), fires (by decide +kernel)⟩, ?_, ?_, by decide +kernel⟩,
    ⟨⟨fires (by decide +kernel), fires (by decide +kernel)⟩, by decide +kernel⟩, ⟨?_, by decide +kernel⟩,
    fires (by decide +kernel), by decide +kernel⟩
  · simpa using fires_showing 3 4 (P := fun p => !p.webPresent 1) (by decide +kernel) (by decide +kernel) (by decide +kernel)
  · exact fires_showing 3 4 (P := fun p => p.webPresent 1) (by decide +kernel) (by decide +kernel) (by decide +kernel)
  · exact fires_showing 3 4 (P := fun p => p.armLoaded 1 .a) (by decide +kernel) (by decide +kernel) (by decide +kernel)
theorem wit_SpliceNowAndWebBreaks :
    let s (ph : Phase) : State := pressOn (spinning (stand (some .a) ph runA readyB) 0 base)
    let w (ph : Phase) : State := sense (.web 1) (.level true) (s ph)
    let spin : State := sense (.web 1) (.level true) (pressOn (spinning (spun .armed none) 0 base))
    let slow : State := onWeb (fun w => { w with v := 2999 }) (s .none)
    let bare (b : ArmRec) : State := pressOn (spinning (stand (some .a) .none runA b) 0 base)
    let dim : State := put 1 { roll .ready (.arm 1 .b) with diam := none } (s .none)
    ((s .none).Button (.spliceNow 1) ∧ (s .none).plant.stand? 1 = some (stand (some .a) .none runA readyB) ∧
      (s .none).plant.standCfg 1 = some standCfg ∧ standCfg.minSpeed ≤ (s .none).speed 1 ∧
      (s .none).plant.pressRun = true ∧ (s .none).plant.roll? h1 = some (roll .ready (.arm 1 .b))) ∧
    (slow.Button (.spliceNow 1) ∧ slow.plant.standCfg 1 = some standCfg ∧ slow.speed 1 < standCfg.minSpeed) ∧
    ((bare runA).Button (.spliceNow 1) ∧ runA.state ≠ .ready) ∧
    ((bare (arm .ready .unrecorded .none)).Button (.spliceNow 1) ∧
      (arm .ready .unrecorded .none).roll = .unrecorded) ∧
    (dim.Button (.spliceNow 1) ∧ (dim.plant.roll? h1).map (·.diam) = some none) ∧
    ((s .accel).Button (.spliceNow 1) ∧ (s .matched).Button (.spliceNow 1) ∧ (s .decel).Button (.spliceNow 1) ∧
      (s .matched).plant.stand? 1 = some (stand (some .a) .matched runA readyB)) ∧
    (base.Button (.spliceNow 1) ∧ base.plant.stand? 1 = some (Stand.reset 1) ∧ base.plant.image.isLine = true) ∧
    (∃ t, (s .none).Fires (.web 1) (.level true) t) ∧
    ((∃ t, (w .none).Fires (.web 1) (.level false) t) ∧
      (w .none).plant.stand? 1 = some (stand (some .a) .none runA readyB) ∧ (w .none).inUse 1 = true ∧
      (w .none).plant.pressRun = true) ∧
    ((∃ t, spin.Fires (.web 1) (.level false) t) ∧ spin.plant.stand? 1 = some (spun .armed none) ∧
      spin.inUse 1 = true ∧ spin.plant.pressRun = true) ∧
    ((∃ t, (w .verify).Fires (.web 1) (.level false) t) ∧
      (w .verify).plant.stand? 1 = some (stand (some .a) .verify runA readyB)) ∧
    (∃ t, (sense (.web 1) (.level true) base).Fires (.web 1) (.level false) t) ∧
      (sense (.web 1) (.level true) base).plant.stand? 1 = some (Stand.reset 1) :=
  ⟨⟨button (by decide +kernel), by decide +kernel⟩, ⟨button (by decide +kernel), by decide +kernel⟩,
    ⟨button (by decide +kernel), by decide +kernel⟩, ⟨button (by decide +kernel), by decide +kernel⟩,
    ⟨button (by decide +kernel), by decide +kernel⟩,
    ⟨button (by decide +kernel), button (by decide +kernel), button (by decide +kernel), by decide +kernel⟩,
    ⟨button (by decide +kernel), by decide +kernel⟩, fires (by decide +kernel),
    ⟨fires (by decide +kernel), by decide +kernel⟩, ⟨fires (by decide +kernel), by decide +kernel⟩,
    ⟨fires (by decide +kernel), by decide +kernel⟩, fires (by decide +kernel), by decide +kernel⟩
theorem wit_WebPulsesAndOutputs : base.plant.node = .run ∧ State.reset.plant.node ≠ .survey ∧
    State.reset.plant.node ≠ .run := by decide +kernel
theorem wit_SplicesFollowTheirPhases :
    let acc : Stand := { spun .accel none with matchedCount := 3 }
    let armed : Stand := { spun .armed none with fireTime := some 1000 }
    let u := at_ 0 1000 (spinning armed 0 base)
    let k := sense (.web 1) (.level true) (spinning (spun .pasted none) 2000000 base)
    let n := spinning (spun .pasted none) 2000000 base
    let v := spinning (spun .verify none) 20000000 base
    ((spinning acc 0 base).plant.lineRun = true ∧ (spinning acc 0 base).plant.stand? 1 = some acc ∧
      (spinning acc 0 base).plant.standCfg 1 = some standCfg ∧ standCfg.settleRevs ≤ acc.matchedCount) ∧
    (u.plant.stand? 1 = some armed ∧ reached u.plant.clock.us 1000 = true ∧
      ((u.bringUp 1).waste? 1).map (fun w => decide (w.marks.length < 4)) = some true) ∧
    (let m : Mark := { pos := 0, old := .record h0, new := .record h1, reached := false }
     let busy := u.modWasteStand 1 fun w => { w with marks := List.replicate 4 m }
     busy.plant.stand? 1 = some armed ∧ ((busy.bringUp 1).waste? 1).map (·.marks) = some (m :: List.replicate 3 m)) ∧
    (k.plant.stand? 1 = some (spun .pasted none) ∧ passed (k.webPos 1) (0 + mm standCfg.knifeOffset) = true ∧
      k.plant.webPresent 1 = true ∧ k.plant.roll? h0 = some (roll .run (.arm 1 .a)) ∧
      k.plant.roll? h1 = some (roll .ready (.arm 1 .b)) ∧ k.plant.gradeCfg 0 = some grade ∧ 0 < standCfg.torqueMax) ∧
    (n.plant.stand? 1 = some (spun .pasted none) ∧ passed (n.webPos 1) (0 + mm standCfg.knifeOffset) = true ∧
      n.plant.webPresent 1 = false) ∧
    (v.plant.stand? 1 = some (spun .verify none) ∧ passed (v.webPos 1) (0 + mm standCfg.verifyLen) = true) ∧
    passed ((spinning (spun .pasted none) 1999999 base).webPos 1) (0 + mm standCfg.knifeOffset) = false ∧
    passed ((spinning (spun .verify none) 19999999 base).webPos 1) (0 + mm standCfg.verifyLen) = false ∧
    reached (at_ 0 999 (spinning armed 0 base)).plant.clock.us 1000 = false := by decide +kernel
/-- The statement on the press edges: one stand at the falling edge, in each kind of phase. -/
theorem wit_PressEdgesAreTaken_stands :
    let s (st : Stand) : State := spinning st 0 base
    let alone : Stand := stand (some .a) .pasted runA ArmRec.reset
    ((s (spun .decel none)).plant.stand? 1 = some (spun .decel none) ∧ (s (spun .decel none)).plant.standCfg 1 = some standCfg ∧
      (s (spun .decel none)).plant.pressRun = false) ∧
    ((s (spun .armed none)).plant.stand? 1 = some (spun .armed none) ∧ (spun .armed none).armB.state = .spin ∧
      (spun .armed none).armA.state ≠ .spin) ∧
    ((s (spun .pasted none)).plant.stand? 1 = some (spun .pasted none) ∧ (spun .pasted none).runArm = some .a ∧
      (s (spun .pasted none)).plant.roll? h0 = some (roll .run (.arm 1 .a)) ∧
      (s (spun .pasted none)).plant.roll? h1 = some (roll .ready (.arm 1 .b)) ∧ h0 ≠ h1 ∧
      (s (spun .pasted none)).plant.webPresent 1 = false ∧
      (sense (.web 1) (.level true) (s (spun .pasted none))).plant.webPresent 1 = true) ∧
    (s alone).plant.stand? 1 = some alone ∧ alone.armA.state = .run ∧ alone.armB.state = .empty := by decide +kernel
theorem wit_RunArmsAreMeasured :
    let s (e : Estimator) (pos : Nat) : State :=
      spinning (stand (some .a) .none { runA with est := e } readyB) pos base
    let len (pos : Nat) (e : Estimator) : Nat := ((s e pos).webPos 1 - 0).toNat
    let at_ (d : Nat) : Nat := (len d (est .measuring) * 1000 + 157079) / 314159
    (s (est .coast) 0).plant.lineRun = true ∧ ((s (est .coast) 0).plant.stand? 1).map (·.armA.est.mode) = some .coast ∧
    ((s { est .seeding with lastCap := none } 0).plant.stand? 1).map (·.armA.est.lastCap) = some none ∧
    ((s (est .seeding) 0).plant.stand? 1).map (·.armA.est.mode) = some .seeding ∧
    (at_ 5026701 = 16000 ∧ at_ 5026702 = 16001 ∧ at_ 314002 = 1000 ∧ at_ 314001 = 999) ∧
    ((s (est .measuring) 1507807).plant.stand? 1).map (fun st => (st.armA.est.dFilt, st.armA.est.rejects)) =
      some (some 5000, 3) ∧ at_ 1507807 = 4800 ∧ at_ 1507806 = 4799 ∧
      ((s (est .measuring) 0).plant.figures { runA with est := est .measuring }).core = 1000 ∧
    (let u (us : Ticks) : State := Tests.at_ 250 us (onWeb (fun w => { w with wLast := -3000000 }) (s (est .measuring) 0))
     let w : WebStand := ((u 0).web? 1).getD (newWebStand standCfg)
     (u 0).web? 1 = some w ∧ min 20000 (((u 0).webPos 1 - w.wLast).toNat / 250) = 12000 ∧
       reached (u 0).plant.clock.ms (u 0).press.web.windowEnd = true ∧
       reached (u 261799).plant.clock.us ((est .measuring).lastTime + BitVec.ofNat 32 (2 * (314159 * 5000 / 12000) + 1)) =
         true ∧
       reached (u 261798).plant.clock.us ((est .measuring).lastTime + BitVec.ofNat 32 (2 * (314159 * 5000 / 12000) + 1)) =
         false ∧
       ((u 0).plant.stand? 1).map (·.runArm) = some (some .a)) := by decide +kernel
/-- Pulses of arms in other states, for this statement and the next. -/
theorem wit_RunArmsAreMeasured_otherArms :
    let s (ph : Phase) : State := spinning (spun ph none) 0 base
    let state (s : State) (m : Arm) : Option ArmState := (s.plant.arm? 1 m).map (·.state)
    let butt : State := spinning (stand (some .b) .none { arm .butt .unrecorded .none with lastPulse := some 0 } readyB) 0 base
    (state butt .a = some .butt ∧ butt.plant.lineRun = true) ∧
    (state (s .decel) .b = some .spin ∧ (s .decel).plant.stand? 1 = some (spun .decel none)) ∧
    (state (s .pasted) .b = some .spin ∧ (s .pasted).plant.stand? 1 = some (spun .pasted none)) ∧
    (state (s .accel) .b = some .spin ∧ (s .accel).plant.stand? 1 = some (spun .accel none)) ∧
    state (s .accel) .a = some .run ∧ state base .a = some .empty ∧ base.plant.lineRun = true := by decide +kernel
theorem wit_StandbyArmsAreJudgedAndStopped :
    let s (ph : Phase) (t : Option Ticks) (us : Ticks) : State := at_ 0 us (spinning (spun ph t) 0 base)
    let butt (r : RollRef) : Stand := stand (some .b) .none { arm .butt r .none with lastPulse := some 0 } readyB
    ((s .accel none 327249).plant.stand? 1 = some (spun .accel none) ∧ (s .accel none 0).plant.lineRun = true) ∧
    ((s .matched (some 0) 327249).plant.stand? 1 = some (spun .matched (some 0)) ∧
      (s .matched (some 0) 327249).plant.roll? h1 = some (roll .ready (.arm 1 .b)) ∧
      (roll .ready (.arm 1 .b)).diam = some 12500 ∧ 0 < (s .matched (some 0) 327249).speed 1 ∧
      ((12000 - 314159 * 12500 / 327249) * 1000 ≤ 3 * 12000 ∧ (314159 * 12500 / 327249 - 12000) * 1000 ≤ 3 * 12000) ∧
      ¬((12000 - 314159 * 12500 / 1100000) * 1000 ≤ 3 * 12000)) ∧
    ((s .armed (some 0) 327249).plant.stand? 1 = some (spun .armed (some 0)) ∧ (spun .armed (some 0)).fireTime = none ∧
      (0 : Int) ≤ (250 * 327249 / 1000 : Nat) - (120000 : Int) + 327249) ∧
    ((s .decel (some 0) 4000001).plant.stand? 1 = some (spun .decel (some 0)) ∧
      (spun .decel (some 0)).armA.state ≠ .spin ∧ reached 4000001 (0 + 4000001#32) = true ∧
      reached 4000000 (0 + 4000001#32) = false) ∧
    ((at_ 0 4000001 (spinning (butt .unrecorded) 0 base)).plant.stand? 1 = some (butt .unrecorded)) ∧
    ((at_ 0 4000001 (spinning (butt (.record h0)) 0 base)).plant.stand? 1 = some (butt (.record h0)) ∧
      (at_ 0 4000001 (spinning (butt (.record h0)) 0 base)).plant.inTask h0 = false) := by decide +kernel
theorem wit_SpeedWindowsGiveSpeeds :
    let s (st : Stand) : State := pressOn (spinning st 0 base)
    let e (f : Estimator → Estimator) : State := s (stand (some .a) .none { runA with est := f (est .measuring) } readyB)
    let late (us : Ticks) : State := at_ 0 us (e id)
    let out : Stand := stand (some .a) .none { runA with est := { est .measuring with dFilt := some 1060 } } readyB
    let waits : Stand := { stand (some .a) .none runA ArmRec.reset with timeToSplice := 900, remaining := some 10 }
    let stored := (s waits).modPlant fun p => { p with
      rolls := p.rolls.set 2 { gen := 0, roll := some (roll .placed (.stop 1)) } }
    let x : Standing := { h := { idx := 2, gen := 0 }, r := roll .placed (.stop 1), stop := 1 }
    let full := stored.modPlant fun p => { p with sched := { p.sched with queue := List.replicate 16 (task 1 h0) } }
    (base.plant.node = .run ∧ reached (at_ 250 0 base).plant.clock.ms base.press.web.windowEnd = true ∧
      base.plant.lineRun = true ∧ (inNode .survey base).plant.node = .survey ∧
      (inNode .survey base).plant.lineRun = false ∧ State.reset.plant.node = .reset ∧ (base.web? 1).isSome = true) ∧
    ((e id).plant.stand? 1 = some (stand (some .a) .none runA readyB) ∧ (e id).plant.standCfg 1 = some standCfg ∧
      (e id).plant.roll? h0 = some (roll .run (.arm 1 .a)) ∧ (e id).speed 1 = 12000) ∧
    (reached (late 261799).plant.clock.us (0 + BitVec.ofNat 32 (2 * (314159 * 5000 / 12000) + 1)) = true ∧
      reached (late 261798).plant.clock.us (0 + BitVec.ofNat 32 (2 * (314159 * 5000 / 12000) + 1)) = false) ∧
    ((e fun f => { f with mode := .coast, coastFrom := some 0 }).plant.arm? 1 .a).map (fun a => (a.est.mode, a.est.coastFrom)) =
      some (.coast, some 0) ∧
    ((s out).plant.figures out.armA).core + standCfg.runOutMargin = 1060 ∧ (s out).plant.pressRun = true ∧
    ((onWeb (fun w => { w with v := 2999 }) (s (spun .armed none))).speed 1 < standCfg.minSpeed ∧
      (s (spun .armed none)).plant.stand? 1 = some (spun .armed none) ∧ standCfg.minSpeed ≤ (s (spun .armed none)).speed 1) ∧
    ((spun .armed none).armB.state = .spin ∧
      0 < 314159 * ((roll .ready (.arm 1 .b)).diam.getD 0) * standCfg.rpmMax ∧ 0 < standCfg.torqueMax) ∧
    ((stand (some .a) .none runA readyB).timeToSplice = 65535 ∧
      { stand (some .a) .none runA readyB with timeToSplice := 120 }.timeToSplice ≤ standCfg.accelLead ∧
      (e id).plant.roll? h1 = some (roll .ready (.arm 1 .b))) ∧
    ((s (stand (some .a) .none runA ArmRec.reset)).plant.stand? 1 = some (stand (some .a) .none runA ArmRec.reset) ∧
      ArmRec.reset.state ≠ .ready ∧
      (put 1 { roll .ready (.arm 1 .b) with unknown := true } (e id)).plant.roll? h1 =
        some { roll .ready (.arm 1 .b) with unknown := true }) ∧
    ((runA.est.dFilt = some 5000 ∧ 1500 < 5000) ∧ grade.ds = 1500 ∧
      { est .measuring with dFilt := some 1500 }.dFilt = some 1500) ∧
    ((s waits).plant.stand? 1 = some waits ∧ (s waits).inUse 1 = true ∧ (s waits).plant.standClaimed 1 = false ∧
      waits.timeToSplice ≤ standCfg.callLead ∧ (s waits).press.edition.need 1 = none) ∧
    (((s waits).plant.pattern 1 = some (0, 1000) ∧ (s waits).plant.callOf? 1 = none ∧
        ((s waits).plant.eligible 1 0 1000).isEmpty = true) ∧
      base.plant.pattern 1 = none ∧ (calling .inbound none).plant.callOf? 1 = some (call .inbound none) ∧
      (calling .chosen none).plant.callOf? 1 = some (call .chosen none)) ∧
    (stored.plant.pattern 1 = some (0, 1000) ∧
      (stored.plant.chooseRoll 0 (stored.plant.eligible 1 0 1000)).map (fun y => (y.h, y.r, y.stop)) =
        some (x.h, x.r, x.stop) ∧
      (stored.plant.eligible 1 0 1000).map (fun y => (y.h, y.r, y.stop)) = [(x.h, x.r, x.stop)] ∧
      (full.plant.chooseRoll 0 (full.plant.eligible 1 0 1000)).map (·.h) = some x.h ∧ 16 ≤ full.plant.sched.queue.length) ∧
    (stored.plant.chooseRoll 1 [{ x with r := { x.r with part := true } }]).isSome = true := by
  intro s e late out waits stored x full
  and_intros <;> decide +kernel

/-! ### Single commands on the small node -/

/-- What a command leaves. -/
def after (c : Instr) (s : State) : State :=
  match step { s with pending := [c] } with
  | .next t => t
  | _ => s

/-- R52 to R54 and 10 section 10.5: a CALL for 1,000 mm of grade 0 is answered to node 7 with an OFFER of call number 3, roll 9,
cost 1 (section 1 to section 2) and dock sequence 3. -/
theorem test_offer : (after .call (rx (msg (.call 3 0 1000 17278)) (rollAt 1 base))).plant.bus.tx.map (·.frame) =
    [{ kind := 17, dest := 7, src := 5, payload := [3, 0, 0, 0, 0, 9, 1, 1, 0, 0, 0, 3] }] := by decide +kernel
/-- R52: a metre more than the roll has gets no answer. -/
theorem test_no_offer : (after .call (rx (msg (.call 3 0 1000 17279)) (rollAt 1 base))).plant.bus.tx = [] := by
  decide +kernel
/-- R157: the copy that completes a version leaves the next version PENDING. -/
theorem test_version_completes : ((after .copyPulse twoOf).press.edition.versions.map (·.state)) =
    [.complete, .complete, .pending] ∧ (after .copyPulse twoOf).press.edition.cur = some 2 := by decide +kernel
/-- R133: splice now takes the stand into ACCEL with the standby arm at the drive duty of R128. -/
theorem test_splice_now :
    ((after (.spliceNow 1) (pressOn (spinning (stand (some .a) .none runA readyB) 0 base))).plant.stand? 1).map
      (fun st => (st.phase, st.armB.state, st.armB.drive)) = some (.accel, .spin, 458) := by decide +kernel
/-- R73, R76: a cart that arrives at a stop with no task there gets the leg to its PARK stop at the next settling. -/
theorem test_arrival : ((after (.stopTagRead 3 1 false false) moving).plant.cart? 1).map (fun c => (c.state, c.leg)) =
    some (.starting, some { stop := 8, task := none }) := by decide +kernel

end Sys2Proof.Tests
end

section
/-! The supply unit (03): settling the statements about calls, offers, holds and shipments. -/
namespace Sys2Proof.SupplyProofs
open Sys2Proof Sys2Proof.Machine

/-! ### What every command does to the order of the queue and of the supply unit -/

/-- `Plant.Reaches` carries its premise on the supply unit in one constructor; the others leave the supply unit alone. -/
theorem reaches_supplyInOrder {p q : Plant} (h : Plant.Reaches p q) (o : p.supply.InOrder) : q.supply.InOrder := by
  induction h with
  | refl _ => exact o
  | trans _ _ a b => exact b (a o)
  | tables _ _ _ _ _ _ _ supply => exact supply o
  | task _ => exact o
  | modRoll _ _ _ => exact o
  | name _ _ _ _ => exact o
  | create made _ =>
    unfold Plant.createRoll at made
    split at made
    · cases made
    · split at made <;> cases made; exact o
  | free _ _ => exact o
  | bus _ _ => exact o

/-- From `p` to `q` the task queue and the supply unit stay in order, each on its own premise. -/
def KeepsOrder (p q : Plant) : Prop :=
  (p.sched.InOrder → q.sched.InOrder) ∧ (p.supply.InOrder → q.supply.InOrder)

theorem KeepsOrder.of_reaches {p q : Plant} (h : Plant.Reaches p q) : KeepsOrder p q :=
  ⟨h.schedInOrder, reaches_supplyInOrder h⟩

/-- A change of neither the queue nor the calls and holds. -/
theorem KeepsOrder.of_eq {p q : Plant} (sched : q.sched = p.sched) (calls : q.supply.calls = p.supply.calls)
    (holds : q.supply.holds = p.supply.holds) : KeepsOrder p q := by
  refine ⟨fun o => sched ▸ o, fun o => ⟨?_, ?_, ?_, ?_⟩⟩
  · rw [calls]; exact o.calls
  · rw [holds]; exact o.holds
  · rw [holds]; exact o.distinct
  · rw [holds]; exact o.taken

theorem KeepsOrder.trans {p q r : Plant} (h : KeepsOrder p q) (k : KeepsOrder q r) : KeepsOrder p r :=
  ⟨k.1 ∘ h.1, k.2 ∘ h.2⟩

theorem schedReset_inOrder : Scheduler.reset.InOrder :=
  ⟨Nat.zero_le 16, .nil, (fun _ h => nomatch h), by decide⟩

theorem supplyReset_inOrder : Supply.reset.InOrder := ⟨.nil, Nat.zero_le 8, .nil, .nil⟩

/-- Reading the image fills the links and leaves the calls, the holds and the queue (R183, R184). -/
theorem readImage_keepsOrder (s : State) (memory : Option (List Byte)) :
    KeepsOrder s.plant (s.readImage memory).plant := by
  have ends : ∀ t : State, KeepsOrder t.plant (match imageFault memory with
      | some (why, o) => t.halt why o
      | none => t.startSurvey).plant := by
    intro t
    split
    · unfold State.halt
      dsimp only
      split <;> exact .of_eq rfl rfl rfl
    · exact .of_eq rfl rfl rfl
  unfold State.readImage
  refine .trans ?_ (ends _)
  split <;> exact .of_eq rfl rfl rfl

/-- The end of the survey leads on from the node in RUN (R185). -/
theorem endSurvey_keepsOrder (s : State) : KeepsOrder s.plant s.endSurvey.plant := by
  cases due : s.plant.surveyDone with
  | false => rw [State.endSurvey_idle due]; exact .of_eq rfl rfl rfl
  | true =>
    exact .trans (q := (s.setNode .run).plant) (.of_eq rfl rfl rfl)
      (.of_reaches (State.endSurvey_leads due (.refl _)).plant)

/-- The commands that do more than lead on (Laws/Command.lean). -/
theorem special_keepsOrder {c : Instr} {s t : State} (special : Instr.special c = true) (h : exec c s = .next t) :
    KeepsOrder s.plant t.plant := by
  cases c with
  | coldReset =>
    cases h
    exact ⟨fun _ => schedReset_inOrder, fun _ => supplyReset_inOrder⟩
  | resetEnd =>
    cases h
    split <;> exact .of_eq rfl rfl rfl
  | imageRead memory =>
    cases h
    split
    · exact readImage_keepsOrder s memory
    · exact .of_eq rfl rfl rfl
  | surveyEnd => cases h; exact endSurvey_keepsOrder s
  | pressRunRise =>
    obtain ⟨u, hu, leads⟩ := pressRunRise_leads s
    cases hu.symm.trans h
    exact .trans (q := (s.setPressRun true).plant) (.of_eq rfl rfl rfl) (.of_reaches leads.plant)
  | pressRunFall =>
    obtain ⟨u, hu, leads⟩ := pressRunFall_leads s
    cases hu.symm.trans h
    exact .trans (q := (s.setPressRun false).plant) (.of_eq rfl rfl rfl) (.of_reaches leads.plant)
  | _ => cases special

theorem step_keepsOrder {s t : State} (h : step s = .next t) : KeepsOrder s.plant t.plant := by
  unfold step at h
  split at h
  · cases h; exact .of_eq rfl rfl rfl
  · next c rest _ =>
    cases special : Instr.special c with
    | true => exact special_keepsOrder (s := { s with pending := rest }) special h
    | false =>
      obtain ⟨u, hu, leads⟩ := exec_leads c { s with pending := rest } special
      cases hu.symm.trans h
      exact .of_reaches leads.plant

/-- Settles O38: what a command that only leads on can do keeps both orders; the others are looked at one by one. -/
theorem stepsKeepTheTaskQueueInOrder : Obligations.StepsKeepTheTaskQueueInOrder :=
  fun _ _ h => step_keepsOrder h

end Sys2Proof.SupplyProofs
end

section
/-! The supply unit (03): frames and waits of calls, offers, holds and shipments. -/
namespace Sys2Proof.SupplyProofs
open Sys2Proof Sys2Proof.Machine

/-! ### The frame at the head of the receive queue -/

/-- A frame that its command takes and its owner does not refuse leaves the queue and is handed over (R178). -/
theorem takeHead_of_head {s : State} {row : FrameRow} {f : Frame} {rest : List Frame} (h : s.Head row f rest)
    (act : Frame → State → State) : s.takeHead row act = act f (s.popped rest) := by
  have popFrame_eq : s.popFrame = s.popped rest := by
    simp [State.popFrame, State.popped, State.modPlant, Plant.modBus, h.front]
  unfold State.takeHead
  rw [h.front]
  simp only [h.kind, h.fits, h.owner, popFrame_eq, and_self, if_true]

/-- Two changes of the plant that agree on this one. -/
theorem next_modPlant_congr {s : State} {f g : Plant → Plant} (e : f s.plant = g s.plant) :
    (Host.Outcome.next (s.modPlant f) : Host.Outcome State Fault Refusal) = .next (s.modPlant g) := by
  unfold State.modPlant
  rw [e]

theorem next_settle_plant {s : State} {f : Plant → Plant} {q : Plant} (e : f s.plant = q) :
    (Host.Outcome.next (s.modPlant f).settle : Host.Outcome State Fault Refusal) =
      .next ({ s with plant := q } : State).settle := by
  unfold State.modPlant
  rw [e]

theorem next_settle_congr {s : State} {f g : Plant → Plant} (e : f s.plant = g s.plant) :
    (Host.Outcome.next (s.modPlant f).settle : Host.Outcome State Fault Refusal) = .next (s.modPlant g).settle := by
  unfold State.modPlant
  rw [e]

section
variable {s : State} {f : Frame} {rest : List Frame}

theorem exec_call (h : s.Head .call f rest) :
    exec .call s = .next ((s.popped rest).modPlant fun p => p.considerCall f) :=
  congrArg Host.Outcome.next (takeHead_of_head h _)
theorem exec_offer (h : s.Head .offer f rest) :
    exec .offer s = .next ((s.popped rest).modPlant fun p => p.takeOffer f) :=
  congrArg Host.Outcome.next (takeHead_of_head h _)
theorem exec_take (h : s.Head .take f rest) :
    exec .take s = .next ((s.popped rest).modPlant fun p => p.takeTake f).settle :=
  congrArg Host.Outcome.next (takeHead_of_head h _)
theorem exec_close (h : s.Head .close f rest) :
    exec .close s = .next ((s.popped rest).modPlant fun p => p.takeClose f) :=
  congrArg Host.Outcome.next (takeHead_of_head h _)
theorem exec_gone (h : s.Head .gone f rest) :
    exec .gone s = .next ((s.popped rest).modPlant fun p => p.takeGone f) :=
  congrArg Host.Outcome.next (takeHead_of_head h _)
theorem exec_shipComing (h : s.Head .shipComing f rest) :
    exec .shipComing s = .next ((s.popped rest).modPlant fun p => p.takeComing f) :=
  congrArg Host.Outcome.next (takeHead_of_head h _)
theorem exec_accept (h : s.Head .accept f rest) :
    exec .accept s = .next ((s.popped rest).modPlant fun p => p.takeAccept f) :=
  congrArg Host.Outcome.next (takeHead_of_head h _)
theorem exec_landed (h : s.Head .landed f rest) :
    exec .landed s = .next ((s.popped rest).modPlant fun p => p.takeLanded f).settle :=
  congrArg Host.Outcome.next (takeHead_of_head h _)

end

end Sys2Proof.SupplyProofs
end

section
/-! The caller side of the supply unit (R40 to R49). -/
namespace Sys2Proof.SupplyProofs
open Sys2Proof Sys2Proof.Machine

/-! ### Offers (R42) -/

/-- The offer that an OFFER frame carries. -/
def offerOf (f : Frame) : Offer := { node := f.src, roll := f.rollNo, cost := f.num 6 1, dock := f.offerDock }

theorem offerKey_lt_iff (o b : Offer) : o.key < b.key ↔ o.cost < b.cost ∨ (o.cost = b.cost ∧
    (youth o.dock < youth b.dock ∨ (youth o.dock = youth b.dock ∧ o.node < b.node))) := by
  simp [Offer.key, List.cons_lt_cons_iff]

/-- A call with one more offer on it. -/
def withOffer (f : Frame) (k : Call) : Call :=
  { k with offerers := k.offerers ++ [f.src], best := if k.betterWith (offerOf f) then some (offerOf f) else k.best }

/-- When an OFFER counts for a call. -/
def Counts (p : Plant) (f : Frame) (c : Call) : Prop :=
  c.state = .opened ∧ p.linkTo f.src ≠ none ∧ f.src ∉ c.offerers

theorem takeOffer_of_counts {p : Plant} {f : Frame} {c : Call} (meant : p.callNumbered f.callNo = some c)
    (counts : Counts p f c) : p.takeOffer f = p.modCall c.stand (withOffer f) := by
  obtain ⟨opened, linked, new⟩ := counts
  unfold Plant.takeOffer
  rw [meant]
  exact if_neg (by simp [opened, linked, new])

theorem takeOffer_of_not_counts {p : Plant} {f : Frame} (ignored : ∀ c, p.callNumbered f.callNo = some c → ¬Counts p f c) :
    p.takeOffer f = p := by
  unfold Plant.takeOffer
  split
  · rfl
  · next c meant =>
    refine if_pos ?_
    have := ignored c meant
    unfold Counts at this
    simp only [List.contains_iff_mem]
    tauto

theorem withOffer_eq (f : Frame) (k : Call) : withOffer f k =
    { k with
      offerers := k.offerers ++ [f.src]
      best := match k.best with
        | none => some (offerOf f)
        | some b =>
          if (offerOf f).cost < b.cost ∨ ((offerOf f).cost = b.cost ∧ (youth (offerOf f).dock < youth b.dock ∨
            (youth (offerOf f).dock = youth b.dock ∧ (offerOf f).node < b.node))) then some (offerOf f) else some b } := by
  unfold withOffer Call.betterWith
  cases k.best with
  | none => rfl
  | some b => simp only [offerKey_lt_iff, decide_eq_true_eq]

/-- Settles O21: the offers that count change the call, and those that do not change nothing. -/
theorem offersAreCompared : Obligations.OffersAreCompared := by
  intro s f rest head
  rw [exec_offer head]
  refine ⟨fun c meant opened linked new => ?_, fun ignored => ?_⟩
  · have e := takeOffer_of_counts (p := (s.popped rest).plant) meant ⟨opened, linked, new⟩
    rw [show withOffer f = _ from funext (withOffer_eq f)] at e
    exact next_modPlant_congr e
  · refine next_modPlant_congr (g := id) (takeOffer_of_not_counts fun c meant ⟨opened, linked, new⟩ => ?_)
    have meant : s.plant.callNumbered f.callNo = some c := meant
    rcases ignored with h | h | ⟨d, hd, h⟩
    · simp [h] at meant
    · exact linked h
    · cases meant.symm.trans hd
      exact h.elim (· opened) new

/-- The better of the best offer so far and a new one; at equal keys the one so far. -/
def better (b : Option Offer) (o : Offer) : Option Offer :=
  match b with
  | none => some o
  | some b => if o.key < b.key then some o else some b

theorem withOffer_best (f : Frame) (k : Call) : (withOffer f k).best = better k.best (offerOf f) := by
  unfold withOffer better Call.betterWith
  cases h : k.best with
  | none => rfl
  | some b => simp only [decide_eq_true_eq]

/-- Offers of different keys may come in either order. -/
theorem better_comm {o q : Offer} (keys : o.key ≠ q.key) (b : Option Offer) :
    better (better b o) q = better (better b q) o := by
  wlog lt : o.key < q.key generalizing o q with wrong
  · exact (wrong keys.symm ((lt_or_gt_of_ne keys).resolve_left lt)).symm
  cases b with
  | none => simp [better, lt, lt_asymm lt]
  | some b =>
    by_cases hb : o.key < b.key
    · by_cases hq : q.key < b.key <;> simp [better, hb, hq, lt, lt_asymm lt]
    · have hq : ¬ q.key < b.key := fun k => hb (lt.trans k)
      simp [better, hb, hq]

/-- The call that a number means, after a change of the calls of one stand. -/
theorem callNumbered_modCall {p : Plant} {n stand : Nat} {g : Call → Call} (num : ∀ k, (g k).num = k.num) :
    (p.modCall stand g).callNumbered n =
      (p.callNumbered n).map fun k => if k.stand == stand then g k else k := by
  unfold Plant.callNumbered Plant.modCall updateIf
  rw [List.find?_map]
  congr 2
  funext k
  dsimp only [Function.comp]
  split <;> simp [num]

/-- The best offer after a run of offers, where `E` says which of them count. -/
theorem foldl_takeOffer_best {n : Nat} {E : Frame → Prop} [DecidablePred E] (fs : List Frame) {p : Plant} {c : Call}
    (meant : p.callNumbered n = some c) (num : ∀ f ∈ fs, f.callNo = n) (nodes : (fs.map (·.src)).Nodup)
    (counts : ∀ f ∈ fs, Counts p f c ↔ E f) :
    ((fs.foldl Plant.takeOffer p).callNumbered n).map (·.best) =
      some (fs.foldl (fun b f => if E f then better b (offerOf f) else b) c.best) := by
  induction fs generalizing p c with
  | nil => simp [meant]
  | cons f fs ih =>
    rw [List.map_cons, List.nodup_cons] at nodes
    obtain ⟨new, nodes⟩ := nodes
    have num' : ∀ g ∈ fs, g.callNo = n := fun g hg => num g (List.mem_cons_of_mem _ hg)
    have hf := counts f List.mem_cons_self
    have meantF : p.callNumbered f.callNo = some c := by rw [num f List.mem_cons_self]; exact meant
    rw [List.foldl_cons, List.foldl_cons]
    by_cases e : E f
    · rw [takeOffer_of_counts meantF (hf.2 e), if_pos e, ← withOffer_best]
      refine ih ?_ num' nodes fun g hg => ?_
      · rw [callNumbered_modCall (g := withOffer f) fun _ => rfl, meant]
        simp
      · have ne : g.src ≠ f.src := fun h => new (h ▸ List.mem_map_of_mem hg)
        rw [← counts g (List.mem_cons_of_mem _ hg)]
        have links : (p.modCall c.stand (withOffer f)).linkTo g.src = p.linkTo g.src := rfl
        simp [Counts, withOffer, ne, links]
    · rw [takeOffer_of_not_counts fun d hd => ?_, if_neg e]
      · exact ih meant num' nodes fun g hg => counts g (List.mem_cons_of_mem _ hg)
      · cases meantF.symm.trans hd
        exact fun k => e (hf.1 k)

/-- Settles O22: offers that count have different nodes, so different keys, and `better` may take them in either order. -/
theorem offerOrderDoesNotMatter : Obligations.OfferOrderDoesNotMatter := by
  intro p fs gs c perm nodes num meant _
  classical
  have nodes' := (perm.map Frame.src).nodup_iff.1 nodes
  rw [foldl_takeOffer_best fs meant num nodes fun _ _ => .rfl,
    foldl_takeOffer_best gs meant (fun g hg => num g (perm.mem_iff.2 hg)) nodes' fun _ _ => .rfl]
  refine congrArg some (perm.foldl_eq' (fun f hf g hg b => ?_) _)
  by_cases same : f.src = g.src
  · rw [List.inj_on_of_nodup_map nodes hf hg same]
  · have keys : (offerOf f).key ≠ (offerOf g).key := by simp [Offer.key, offerOf, same]
    split_ifs <;> simp [better_comm keys]

/-! ### The end of the offer window (R43) -/

/-- Settles O23 by the best offer, on the run of the window's end. -/
theorem offerWindowEnds : Obligations.OfferWindowEnds := by
  intro s n c found opened due
  have due : reached s.plant.now c.expiry = true := due
  refine ⟨fun noOffer => next_modPlant_congr ?_, fun b offered => next_modPlant_congr ?_⟩
  · unfold Plant.offerWindowEnd
    simp only [found, opened, due, noOffer, and_self, if_true]
    rfl
  · unfold Plant.offerWindowEnd
    simp only [found, opened, due, offered, and_self, if_true]
    rfl

/-! ### Chosen calls (R44, R46, R49) -/

/-- The call that a frame of its best offerer means. -/
theorem chosenCall_eq_some_iff {p : Plant} {f : Frame} {c : Call} : p.chosenCall f = some c ↔
    p.callNumbered f.callNo = some c ∧ c.state = .chosen ∧ ∃ b, c.best = some b ∧ b.node = f.src := by
  unfold Plant.chosenCall
  cases hb : c.best with
  | none => simp [Option.filter_eq_some_iff, hb]
  | some b => simp [Option.filter_eq_some_iff, hb]

/-- A call that alone has its number is the one the number means. -/
theorem callNumbered_of_unique {p : Plant} {c : Call} {n : Nat} (mem : c ∈ p.supply.calls) (num : c.num = n)
    (unique : ∀ d ∈ p.supply.calls, d.num = n → d = c) : p.callNumbered n = some c := by
  unfold Plant.callNumbered
  cases found : p.supply.calls.find? (·.num == n) with
  | none => simpa [num] using List.find?_eq_none.1 found c mem
  | some d => rw [unique d (List.mem_of_find?_eq_some found) (by simpa using List.find?_some found)]

/-- Settles O24 by whether the frame has a chosen call. -/
theorem comingKeepsTheCallAlive : Obligations.ComingKeepsTheCallAlive := by
  intro s f rest head
  rw [exec_shipComing head]
  refine ⟨fun c b mem num unique chosen best node => ?_, fun others => ?_⟩
  · have meant : (s.popped rest).plant.chosenCall f = some c :=
      chosenCall_eq_some_iff.2 ⟨callNumbered_of_unique mem num unique, chosen, b, best, node⟩
    refine next_modPlant_congr ?_
    unfold Plant.takeComing
    rw [meant]
    rfl
  · refine next_modPlant_congr (g := id) ?_
    unfold Plant.takeComing
    cases meant : (s.popped rest).plant.chosenCall f with
    | none => rfl
    | some c =>
      obtain ⟨found, chosen, b, best, node⟩ := chosenCall_eq_some_iff.1 meant
      exact absurd ⟨chosen, node⟩
        (others c (List.mem_of_find?_eq_some found) b (by simpa using List.find?_some found) best)

/-- Settles O25, one command for each clause. -/
theorem chosenCallsFailAndAreFreed : Obligations.ChosenCallsFailAndAreFreed := by
  intro s
  refine ⟨fun f rest c b head found chosen best node => ?_, fun n c found chosen due => ?_,
    fun n c found failed due => ?_⟩
  · have meant : (s.popped rest).plant.chosenCall f = some c :=
      chosenCall_eq_some_iff.2 ⟨found, chosen, b, best, node⟩
    rw [exec_gone head]
    refine next_modPlant_congr ?_
    unfold Plant.takeGone
    rw [meant]
    rfl
  · have due : reached s.plant.now c.expiry = true := due
    refine next_modPlant_congr ?_
    unfold Plant.shipWaitEnd
    simp only [found, chosen, due, and_self, if_true]
    rfl
  · have due : reached s.plant.now c.expiry = true := due
    refine next_modPlant_congr ?_
    unfold Plant.retryEnd
    simp only [found, failed, due, and_self, if_true]
    rfl

end Sys2Proof.SupplyProofs
end

section
/-! The giver side of the supply unit (R52 to R61). -/
namespace Sys2Proof.SupplyProofs
open Sys2Proof Sys2Proof.Machine

/-! ### The rolls that may be offered (R52, R53) -/

theorem mem_records_iff {p : Plant} {h : Handle} {r : Roll} : (h, r) ∈ p.records ↔ p.roll? h = some r := by
  unfold Plant.records Plant.roll?
  rw [List.mem_filterMap]
  constructor
  · rintro ⟨⟨slot, i⟩, mem, e⟩
    obtain ⟨q, hq, e⟩ := Option.map_eq_some_iff.1 e
    cases e
    rw [List.mem_zipIdx_iff_getElem?] at mem
    simp [show p.rolls[i]? = some slot from mem, hq]
  · intro e
    split at e
    · next slot found =>
      split at e
      · next gen =>
        refine ⟨(slot, h.idx), by rw [List.mem_zipIdx_iff_getElem?]; exact found, ?_⟩
        simp [e, gen]
      · cases e
    · cases e

theorem mem_standing_iff {p : Plant} {x : Standing} :
    x ∈ p.standing ↔ p.roll? x.h = some x.r ∧ x.r.state = .placed ∧ x.r.loc = .stop x.stop := by
  unfold Plant.standing
  rw [List.mem_filterMap]
  constructor
  · rintro ⟨⟨h, r⟩, mem, e⟩
    dsimp only at e
    split at e
    · next placed stop => cases e; exact ⟨mem_records_iff.1 mem, placed, stop⟩
    · cases e
  · rintro ⟨found, placed, stop⟩
    exact ⟨(x.h, x.r), mem_records_iff.2 found, by simp only [placed, stop]⟩

theorem widthNear_iff {o : Option Nat} {x : Nat} : widthNear o x = true ↔ ∃ w, o = some w ∧ w ≤ x + 5 ∧ x ≤ w + 5 := by
  cases o <;> simp [widthNear]

theorem mayHold_iff {r : Roll} {caller callNo : Nat} : r.mayClaim true (.hold caller callNo) = true ↔
    r.claim = .none ∧ r.unknown = false ∧ r.rejected = false ∧ r.state = .placed := by
  simp [Roll.mayClaim, and_assoc]

theorem mem_offerable_iff {p : Plant} {f : Frame} {x : Standing} : x ∈ p.offerable f ↔
    p.roll? x.h = some x.r ∧ x.r.state = .placed ∧ x.r.loc = .stop x.stop ∧ p.stopKind x.stop = some .slot ∧
      p.stopLost x.stop = false ∧ x.r.claim = .none ∧ x.r.unknown = false ∧ x.r.rejected = false ∧
      x.r.grade = some (f.num 1 1) ∧ (∃ w, x.r.width = some w ∧ w ≤ f.num 2 2 + 5 ∧ f.num 2 2 ≤ w + 5) ∧
      0 < p.storedRemaining x.r ∧ f.num 4 4 ≤ p.storedRemaining x.r := by
  simp only [Plant.offerable, List.mem_filter, mem_standing_iff, Bool.and_eq_true, beq_iff_eq, Bool.not_eq_true',
    mayHold_iff, widthNear_iff, decide_eq_true_eq]
  tauto

/-- A call of this LINE node wants such paper (R52). -/
theorem ownCallFor_iff {p : Plant} {grade width : Nat} : p.ownCallFor grade width = true ↔ p.image.cls = 1 ∧
    ∃ c ∈ p.supply.calls, c.grade = grade ∧ c.width ≤ width + 5 ∧ width ≤ c.width + 5 := by
  simp [Plant.ownCallFor, Image.isLine, widthNear_iff]

/-- The cost in ring sections, at most 255 (R53). -/
theorem costFrom_eq {p : Plant} {x out a b : Nat} (at_x : p.stopSec x = some a) (at_out : p.stopSec out = some b)
    (ha : 1 ≤ a) (ha' : a ≤ p.ringSize) (hb : 1 ≤ b) (hb' : b ≤ p.ringSize) :
    p.costFrom x out = min 255 (if a ≤ b then b - a else b + p.ringSize - a) := by
  have dist : ringDist p.ringSize a b = if a ≤ b then b - a else b + p.ringSize - a := by
    unfold ringDist
    split
    · rw [show b + p.ringSize - a = b - a + p.ringSize by omega, Nat.add_mod_right, Nat.mod_eq_of_lt (by omega)]
    · exact Nat.mod_eq_of_lt (by omega)
  unfold Plant.costFrom
  rw [at_x, at_out]
  simp only [dist]

/-! ### The link and the answer (R52, R54) -/

/-- The link `l` with its entry `cfg` is one on which a CALL may be answered. -/
structure Usable (p : Plant) (f : Frame) (l : LinkRec) (cfg : LinkCfg) : Prop where
  idle : l.out.state = .idle
  free : ∀ h ∈ p.supply.holds, h.link = l.num → h.expiry ≠ none
  empty : p.stopEmpty cfg.outStop = true
  present : p.stopLost cfg.outStop = false
  new : ∀ h ∈ p.supply.holds, h.caller = f.src → h.callNo ≠ f.callNo
  own : p.ownCallFor (f.num 1 1) (f.num 2 2) = false
  room : p.supply.holds.length < 8

theorem offerLink_of_unlinked {p : Plant} {f : Frame} (unlinked : p.linkTo f.src = none) : p.offerLink f = none := by
  unfold Plant.offerLink
  rw [unlinked]
  rfl

open Classical in
theorem offerLink_of_linked {p : Plant} {f : Frame} {n : Nat} {l : LinkRec} {cfg : LinkCfg}
    (linked : p.linkTo f.src = some n) (link : p.link? n = some l) (config : p.linkCfg n = some cfg) :
    p.offerLink f = if Usable p f l cfg then some (l, cfg) else none := by
  unfold Plant.offerLink
  rw [linked, Option.bind_some, Option.bind_some, link, config]
  dsimp only
  congr 1
  refine propext ⟨fun ⟨idle, free, empty, present, new, own, room⟩ => ⟨idle, ?_, empty, present, ?_, own, room⟩,
    fun u => ⟨u.idle, ?_, u.empty, u.present, ?_, u.own, u.room⟩⟩
  · simpa using free
  · simpa using new
  · simpa using u.free
  · simpa using u.new

theorem considerCall_of_refused {p : Plant} {f : Frame} (refused : p.offerLink f = none ∨ p.offerable f = []) :
    p.considerCall f = p := by
  unfold Plant.considerCall
  split
  · rfl
  · next l cfg e =>
    rw [refused.resolve_left (by simp [e])]
    rfl

/-- A member whose key is below that of every other is the one picked. -/
theorem argMin_eq {α : Type} {key : α → List Nat} {l : List α} {x : α} (mem : x ∈ l)
    (least : ∀ y ∈ l, y = x ∨ key x < key y) : argMin key l = some x := by
  cases picked : argMin key l with
  | none => rw [argMin_none.1 picked] at mem; cases mem
  | some y =>
    rcases least y (argMin_mem picked) with same | lt
    · rw [same]
    · exact absurd lt (argMin_least picked x mem)

theorem considerCall_of_best {p : Plant} {f : Frame} {l : LinkRec} {cfg : LinkCfg} {x : Standing}
    (link : p.offerLink f = some (l, cfg)) (mem : x ∈ p.offerable f)
    (least : ∀ y ∈ p.offerable f, y = x ∨ [p.costFrom x.stop cfg.outStop, youth x.r.dock, x.stop] <
      [p.costFrom y.stop cfg.outStop, youth y.r.dock, y.stop]) :
    p.considerCall f =
      ({ p.modRoll x.h (fun r => { r with claim := .hold f.src f.callNo }) with
        supply := { p.supply with holds := p.supply.holds ++
          [({ roll := x.h, caller := f.src, callNo := f.callNo, link := l.num,
              expiry := some (p.clock.ms + 3000#32) } : Hold)] } }).send f.src
        (.offer f.callNo (numOr0 x.r.num) (p.costFrom x.stop cfg.outStop) x.r.dock) := by
  unfold Plant.considerCall
  rw [link]
  dsimp only
  rw [argMin_eq (key := fun s : Standing => [p.costFrom s.stop cfg.outStop, youth s.r.dock, s.stop]) mem least]
  rfl

/-- Settles O20: the link is usable or not, and of the rolls that may be offered `argMin` picks the least. -/
theorem callsAreAnsweredWithOneOffer : Obligations.CallsAreAnsweredWithOneOffer := by
  intro s f rest head
  refine ⟨fun unlinked => ?_, fun n l cfg linked link config => ?_, ownCallFor_iff, fun x => mem_offerable_iff,
    fun x out a b at_x at_out => costFrom_eq at_x at_out⟩
  · rw [exec_call head]
    exact next_modPlant_congr (g := id) (considerCall_of_refused (.inl (offerLink_of_unlinked unlinked)))
  classical
  have answer := offerLink_of_linked (p := (s.popped rest).plant) linked link config
  rw [exec_call head]
  refine ⟨fun x idle free empty present new own room mem least => ?_, fun refused => ?_⟩
  · rw [if_pos ⟨idle, free, empty, present, new, own, room⟩] at answer
    exact next_modPlant_congr (considerCall_of_best answer mem least)
  · refine next_modPlant_congr (g := id) (considerCall_of_refused ?_)
    by_cases noRoll : s.plant.offerable f = []
    · exact .inr noRoll
    · rw [if_neg fun u => ?_] at answer
      · exact .inl answer
      · rcases refused with h | ⟨h, mem, link, expired⟩ | h | h | ⟨h, mem, caller, no⟩ | h | h | h
        · exact h u.idle
        · exact u.free h mem link expired
        · exact absurd (u.empty.symm.trans h) (by decide)
        · exact absurd (u.present.symm.trans h) (by decide)
        · exact u.new h mem caller no
        · exact absurd (u.own.symm.trans h) (by decide)
        · exact absurd u.room (Nat.not_lt.2 h)
        · exact noRoll h

/-! ### Holds that end (R56, R57) -/

/-- Settles O27: CLOSE and the expiry both free the hold they find HELD. -/
theorem holdsAreReleased : Obligations.HoldsAreReleased := by
  intro s
  refine ⟨fun f rest h T head found held => ?_, fun f rest head taken => ?_, fun caller callNo h T found held due => ?_⟩
  · rw [exec_close head]
    refine next_modPlant_congr ?_
    have found : (s.popped rest).plant.supply.holds.find? (fun o => o.caller == f.src && o.callNo == f.callNo) = some h :=
      found
    unfold Plant.takeClose
    rw [found]
    exact if_neg (by simp [held])
  · rw [exec_close head]
    refine next_modPlant_congr (g := id) ?_
    unfold Plant.takeClose
    split
    · next h found =>
      have fits := List.find?_some found
      simp only [Bool.and_eq_true, beq_iff_eq] at fits
      exact if_pos (taken h (List.mem_of_find?_eq_some found) fits.1 fits.2)
    · rfl
  · have due : reached? s.plant.now h.expiry = true := by rw [held]; exact due
    refine next_modPlant_congr ?_
    unfold Plant.holdEnd
    rw [found]
    exact if_pos due

/-! ### Shipments on the way (R55, R58, R59) -/

/-- Settles O29 on the outbound record found, or not found. -/
theorem shipmentsAdvance : Obligations.ShipmentsAdvance := by
  intro s
  refine ⟨fun f rest l head asking => ?_, fun f rest head noRecord => ?_, fun n l T found carrying due at_T => ?_⟩
  · have asking : (s.popped rest).plant.outboundFor f [.asking] = some l := asking
    rw [exec_accept head]
    refine next_modPlant_congr ?_
    unfold Plant.takeAccept
    rw [asking]
    rfl
  · have noRecord : (s.popped rest).plant.outboundFor f [.asking] = none := noRecord
    rw [exec_accept head]
    refine next_modPlant_congr (g := id) ?_
    unfold Plant.takeAccept
    rw [noRecord]
    rfl
  · have due : reached? s.plant.now l.out.coming = true := by rw [due]; exact at_T
    refine next_modPlant_congr ?_
    unfold Plant.repeatComing
    rw [found]
    exact if_pos ⟨carrying, due⟩

end Sys2Proof.SupplyProofs
end

section
/-! A TAKE starts a shipment, or is answered GONE (R55, R90). -/
namespace Sys2Proof.SupplyProofs
open Sys2Proof Sys2Proof.Machine

/-! ### Records of the roll table after a change -/

theorem roll?_eq_bind (p : Plant) (h : Handle) :
    p.roll? h = p.rolls[h.idx]?.bind fun slot => if slot.gen = h.gen then slot.roll else none := by
  unfold Plant.roll?
  cases p.rolls[h.idx]? <;> rfl

theorem roll?_modRoll_self (p : Plant) (h : Handle) (f : Roll → Roll) :
    (p.modRoll h f).roll? h = (p.roll? h).map f := by
  rw [roll?_eq_bind, roll?_eq_bind, Plant.modRoll_rolls, List.getElem?_modify_eq]
  cases p.rolls[h.idx]? with
  | none => rfl
  | some slot => by_cases gen : slot.gen = h.gen <;> simp [gen]

/-- A change of a record that agrees with another on that record. -/
theorem modRoll_congr {p : Plant} {h : Handle} {f g : Roll → Roll} {r : Roll} (found : p.roll? h = some r)
    (agree : f r = g r) : p.modRoll h f = p.modRoll h g := by
  unfold Plant.roll? at found
  unfold Plant.modRoll
  congr 1
  refine List.ext_getElem? fun i => ?_
  rw [List.getElem?_modify, List.getElem?_modify]
  by_cases idx : h.idx = i
  · subst idx
    split at found
    · next slot at_idx =>
      split at found
      · next gen => simp [at_idx, gen, found, agree]
      · cases found
    · cases found
  · simp [idx]

theorem modRoll_modRoll (p : Plant) (h : Handle) (f g : Roll → Roll) :
    (p.modRoll h f).modRoll h g = p.modRoll h (g ∘ f) := by
  unfold Plant.modRoll
  congr 1
  rw [List.modify_modify_eq]
  congr 1
  funext slot
  by_cases gen : slot.gen = h.gen <;> simp [gen]

/-! ### Creating a task (R90) -/

/-- A new task joins the queue. -/
def withTask (p : Plant) (r : TaskReq) : Plant :=
  ({ p with sched := { p.sched with
      queue := p.sched.queue ++ [p.newTask r (freeTaskNumber p.sched.queue 255 p.sched.next)]
      next := taskSucc (freeTaskNumber p.sched.queue 255 p.sched.next) } }).refreshClasses

/-- The queue is full and TASK_QUEUE_FULL has been sent. -/
def fullNoted (p : Plant) (k : TaskKind) : Plant :=
  if p.sched.fullSent then p else ({ p with sched := { p.sched with fullSent := true } }).event (.taskQueueFull k)

theorem fullNoted_rolls (p : Plant) (k : TaskKind) : (fullNoted p k).rolls = p.rolls := by
  unfold fullNoted; split <;> rfl
theorem fullNoted_supply (p : Plant) (k : TaskKind) : (fullNoted p k).supply = p.supply := by
  unfold fullNoted; split <;> rfl
theorem fullNoted_traffic (p : Plant) (k : TaskKind) : (fullNoted p k).traffic = p.traffic := by
  unfold fullNoted; split <;> rfl
theorem fullNoted_sched (p : Plant) (k : TaskKind) : (fullNoted p k).sched = { p.sched with fullSent := true } := by
  unfold fullNoted
  split
  · next sent => rw [← sent]
  · rfl
theorem fullNoted_bus (p : Plant) (k : TaskKind) :
    (fullNoted p k).bus = if p.sched.fullSent = true then p.bus else p.bus.sendEvent (.taskQueueFull k) := by
  unfold fullNoted; split <;> rfl

section
variable {p : Plant} {r : TaskReq} (known : (p.roll? r.roll).isSome) (free : p.inTask r.roll = false)
include known free

theorem createTask_of_full (full : 16 ≤ p.sched.queue.length) : p.createTask r = (fullNoted p r.kind, some .full) := by
  have full : Config.taskCap ≤ p.sched.queue.length := full
  unfold Plant.createTask
  rw [if_neg (by simpa using Option.isSome_iff_ne_none.1 known), if_neg (by simp [free]), if_pos full]
  unfold fullNoted
  split <;> rfl

theorem createTask_of_room (room : p.sched.queue.length < 16) : p.createTask r = (withTask p r, none) := by
  have room : ¬ Config.taskCap ≤ p.sched.queue.length := Nat.not_le.2 room
  unfold Plant.createTask
  rw [if_neg (by simpa using Option.isSome_iff_ne_none.1 known), if_neg (by simp [free]), if_neg room]
  rfl

end

/-- The new task is in the queue, unless the class of an UNLOAD is set anew. -/
theorem newTask_mem_withTask (p : Plant) {r : TaskReq} (kind : r.kind ≠ .unload) :
    p.newTask r (freeTaskNumber p.sched.queue 255 p.sched.next) ∈ (withTask p r).sched.queue :=
  List.mem_map.2 ⟨_, List.mem_append_right _ (List.mem_singleton_self _), if_neg kind⟩

/-! ### TAKE (R55) -/

theorem takeTake_of_none {p : Plant} {f : Frame} (noHold : p.supply.holds.find? (fun h => h.caller == f.src &&
    h.callNo == f.callNo && ((p.roll? h.roll).bind (·.num)) == some f.rollNo) = none) :
    p.takeTake f = p.send f.src (.gone f.callNo f.rollNo) := by
  unfold Plant.takeTake
  rw [noHold]

section
variable {p : Plant} {f : Frame} {h : Hold} (found : p.supply.holds.find? (fun h => h.caller == f.src &&
  h.callNo == f.callNo && ((p.roll? h.roll).bind (·.num)) == some f.rollNo) = some h)
include found

theorem takeTake_hold : h.caller = f.src ∧ h.callNo = f.callNo := by
  have fits := List.find?_some found
  simp only [Bool.and_eq_true, beq_iff_eq] at fits
  exact fits.1

theorem takeTake_of_taken (taken : h.expiry = none) : p.takeTake f = p := by
  unfold Plant.takeTake
  rw [found]
  exact if_pos taken

theorem takeTake_of_busy {T : Ticks} (held : h.expiry = some T)
    (busy : (∃ o ∈ p.supply.holds, o.link = h.link ∧ o.expiry = none) ∨
      ∀ l, p.link? h.link = some l → l.out.state ≠ .idle) :
    p.takeTake f = ((p.send f.src (.gone f.callNo f.rollNo)).release h.roll (.hold f.src f.callNo)).dropHolds
      (· == h) := by
  obtain ⟨caller, callNo⟩ := takeTake_hold found
  rw [show ∀ q : Plant, (q.release h.roll (.hold f.src f.callNo)).dropHolds (· == h) = q.freeHold h by
    intro q; rw [← caller, ← callNo]; rfl]
  unfold Plant.takeTake
  rw [found]
  refine (if_neg (by simp [held])).trans (if_neg fun ⟨free, idle⟩ => ?_)
  obtain ⟨l, link, idle⟩ := Option.map_eq_some_iff.1 idle
  rcases busy with ⟨o, mem, same, taken⟩ | busy
  · simpa [same, taken] using List.any_eq_false.1 free o mem
  · exact busy l link idle

theorem takeTake_of_free {T : Ticks} (held : h.expiry = some T)
    (free : ∀ o ∈ p.supply.holds, o.link = h.link → o.expiry ≠ none) {l : LinkRec} (link : p.link? h.link = some l)
    (idle : l.out.state = .idle) : p.takeTake f = p.startShipment h f.rollNo := by
  unfold Plant.takeTake
  rw [found]
  exact (if_neg (by simp [held])).trans (if_pos ⟨by simpa using free, by simp [link, idle]⟩)

end

/-- A hold is TAKEN. -/
def takenHold (p : Plant) (h : Hold) : Plant :=
  { p with supply := { p.supply with
      holds := updateIf (· == h) (fun h => { h with expiry := none }) p.supply.holds } }

/-- The hold is TAKEN and its roll's claim is SHIP. -/
def shipping (p : Plant) (h : Hold) : Plant :=
  (takenHold p h).modRoll h.roll fun r =>
    if r.claim = Claim.hold h.caller h.callNo then { r with claim := .ship h.link } else r

/-- The SHIP task that a hold turns into. -/
def shipTask (h : Hold) (src : Source) : TaskReq :=
  { kind := .ship, roll := h.roll, src := src, stand := none, link := some h.link }

/-- The stop a record names as its place; 0 with none. -/
def sourceOf (p : Plant) (h : Handle) : Source :=
  match (p.roll? h).map (fun r : Roll => r.loc) with
  | some (Loc.stop x) => Source.stop x
  | _ => Source.stop 0

theorem startShipment_eq (p : Plant) (h : Hold) (n : Nat) : p.startShipment h n =
    match (shipping p h).createTask (shipTask h (sourceOf (shipping p h) h.roll)) with
    | (q, none) => (q.modLink h.link fun l =>
        { l with out := { Outbound.idle with
            state := .carrying, roll := some h.roll, caller := h.caller, callNo := h.callNo,
            coming := some (q.now + Config.comingPeriod) } }).send h.caller (.shipComing h.callNo n)
    | (q, some _) =>
      ((q.send h.caller (.gone h.callNo n)).release h.roll (.ship h.link)).dropHolds (·.roll == h.roll) := rfl

section
variable {p : Plant} {h : Hold} {r : Roll} {x : Nat} (known : p.roll? h.roll = some r)
  (claim : r.claim = Claim.hold h.caller h.callNo) (stop : r.loc = .stop x) (free : p.inTask h.roll = false)
include known claim

theorem shipping_eq : shipping p h = (takenHold p h).modRoll h.roll fun r => { r with claim := .ship h.link } :=
  modRoll_congr (p := takenHold p h) known (if_pos claim)

theorem shipping_rolls : (shipping p h).rolls = (p.modRoll h.roll fun r => { r with claim := .ship h.link }).rolls := by
  rw [shipping_eq known claim]
  rfl

/-- A refused shipment leaves the roll with no claim. -/
theorem refused_rolls {k : TaskKind} {q : Plant} (same : q.rolls = (fullNoted (shipping p h) k).rolls) :
    (q.release h.roll (.ship h.link)).rolls = (p.modRoll h.roll fun r => { r with claim := .none }).rolls := by
  have e : (q.release h.roll (.ship h.link)).rolls = ((p.modRoll h.roll fun r => { r with claim := .ship h.link }).modRoll
      h.roll fun r => if r.claim = .ship h.link then { r with claim := .none } else r).rolls := by
    unfold Plant.release
    rw [Plant.modRoll_rolls, Plant.modRoll_rolls, same, fullNoted_rolls, shipping_rolls known claim]
  rw [e, modRoll_modRoll]
  exact congrArg Plant.rolls (modRoll_congr known (if_pos rfl))

theorem shipping_roll? : (shipping p h).roll? h.roll = some { r with claim := .ship h.link } := by
  rw [shipping_eq known claim, roll?_modRoll_self, show (takenHold p h).roll? h.roll = some r from known]
  rfl

include stop

theorem sourceOf_shipping : sourceOf (shipping p h) h.roll = .stop x := by
  unfold sourceOf
  rw [shipping_roll? known claim]
  simp only [Option.map_some, stop]

include free

theorem startShipment_of_room {n : Nat} (room : p.sched.queue.length < 16) :
    p.startShipment h n = ((withTask (shipping p h) (shipTask h (.stop x))).modLink h.link fun l =>
      { l with out := { Outbound.idle with
          state := .carrying, roll := some h.roll, caller := h.caller, callNo := h.callNo,
          coming := some (p.now + Config.comingPeriod) } }).send h.caller (.shipComing h.callNo n) := by
  rw [startShipment_eq, sourceOf_shipping known claim stop,
    createTask_of_room (p := shipping p h) (r := shipTask h (.stop x)) (by simp [shipTask, shipping_roll? known claim]) free room]
  rfl

theorem startShipment_of_full {n : Nat} (full : 16 ≤ p.sched.queue.length) :
    p.startShipment h n = (((fullNoted (shipping p h) .ship).send h.caller (.gone h.callNo n)).release h.roll
      (.ship h.link)).dropHolds (·.roll == h.roll) := by
  rw [startShipment_eq, sourceOf_shipping known claim stop,
    createTask_of_full (p := shipping p h) (r := shipTask h (.stop x)) (by simp [shipTask, shipping_roll? known claim]) free full]
  rfl

end

/-- The holds of other rolls are not those changed at a hold. -/
theorem filter_updateIf_hold (l : List Hold) (h : Hold) {f : Hold → Hold} (roll : ∀ k, (f k).roll = k.roll) :
    (updateIf (· == h) f l).filter (fun o => o.roll != h.roll) = l.filter fun o => o.roll != h.roll := by
  induction l with
  | nil => rfl
  | cons k l ih =>
    unfold updateIf at ih ⊢
    rw [List.map_cons, List.filter_cons, List.filter_cons, ih]
    by_cases same : k = h
    · simp [same, roll]
    · simp [same]

/-- Settles O26, one lemma per answer to a TAKE; the two ends of a shipment's start differ in the room of the queue. -/
theorem takesStartShipments : Obligations.TakesStartShipments := by
  intro s f rest head held
  rw [exec_take head]
  have found' {h : Option Hold} (found : s.plant.supply.holds.find? held = h) :
      (s.popped rest).plant.supply.holds.find? (fun h => h.caller == f.src && h.callNo == f.callNo &&
        (((s.popped rest).plant.roll? h.roll).bind (·.num)) == some f.rollNo) = h := found
  refine ⟨fun found => ?_, fun h found taken => ?_, fun h T found expiry busy => ?_,
    fun h T l x r found expiry free link idle known claim stop noTask => ?_⟩
  · exact next_settle_congr (takeTake_of_none (found' found))
  · exact next_settle_congr (g := id) (takeTake_of_taken (found' found) taken)
  · exact next_settle_congr (takeTake_of_busy (found' found) expiry busy)
  · obtain ⟨caller, callNo⟩ := takeTake_hold (found' found)
    rw [← caller, ← callNo] at claim ⊢
    have starts := takeTake_of_free (p := (s.popped rest).plant) (found' found) expiry free link idle
    refine ⟨fun room => ⟨_, next_settle_plant (starts.trans (startShipment_of_room (p := (s.popped rest).plant) known
        claim stop noTask room)), ?_⟩,
      fun full => ⟨_, next_settle_plant (starts.trans (startShipment_of_full (p := (s.popped rest).plant) known
        claim stop noTask full)), ?_⟩⟩
    · exact ⟨shipping_rolls (p := (s.popped rest).plant) known claim, rfl, rfl, rfl, _,
        newTask_mem_withTask _ (r := shipTask h (.stop x)) (by simp [shipTask]), rfl, rfl, rfl, rfl, rfl, rfl⟩
    · refine ⟨refused_rolls (p := (s.popped rest).plant) known claim rfl, ?_, fullNoted_traffic _ _, fullNoted_sched _ _,
        congrArg (BusPort.send · _ _) (fullNoted_bus _ _)⟩
      simp only [Plant.dropHolds_supply, Plant.release, Plant.modRoll_supply, Plant.send_supply, fullNoted_supply]
      exact congrArg (fun l => { s.plant.supply with holds := l })
        (filter_updateIf_hold s.plant.supply.holds h (f := fun h => { h with expiry := none }) fun _ => rfl)

end Sys2Proof.SupplyProofs
end

section
/-! The end of a shipment at either side: the record is deleted (R20, R48, R61). -/
namespace Sys2Proof.SupplyProofs
open Sys2Proof Sys2Proof.Machine

/-! ### Deletion of a record that no task and no CARRYING shipment names (R20) -/

/-- The record is freed, its places are cleared and its holds dropped. -/
def deleted (p : Plant) (h : Handle) : Plant := ((p.freeRoll h).clearPlaces h).dropHolds (·.roll == h)

theorem freeRoll_roll? (p : Plant) (h : Handle) : (p.freeRoll h).roll? h = none := by
  rw [roll?_eq_bind, Plant.freeRoll_rolls, List.getElem?_modify_eq]
  cases p.rolls[h.idx]? with
  | none => rfl
  | some slot =>
    by_cases gen : slot.gen = h.gen
    · cases roll : slot.roll <;> simp [gen, roll]
    · simp [gen]

/-- The blocks told of a deleted record drop its holds; a claimed shipment's record goes IDLE besides. -/
theorem claimEnded_cases {p : Plant} {h : Handle}
    (noShipment : ∀ k ∈ p.supply.links, k.out.roll = some h → k.out.state ≠ .carrying) (c : Claim) (n : Nat) :
    p.claimEnded h c n = p.dropHolds (·.roll == h) ∨ ∃ l, p.claimEnded h c n = (p.dropHolds (·.roll == h)).outIdle l := by
  have noLink : p.carryingLink h = none :=
    List.find?_eq_none.2 fun k mem e => by
      simp only [Bool.and_eq_true, beq_iff_eq] at e
      exact noShipment k mem e.2 e.1
  have holds : p.holdsEnded h n = p.dropHolds (·.roll == h) := by
    unfold Plant.holdsEnded
    rw [noLink]
  unfold Plant.claimEnded
  rw [holds]
  cases c with
  | none => exact .inl rfl
  | stand _ => exact .inl rfl
  | hold _ _ => exact .inl rfl
  | ship l =>
    dsimp only
    split
    · split
      · exact .inr ⟨l, rfl⟩
      · exact .inl rfl
    · exact .inl rfl

theorem deleteRoll_cases {p : Plant} {h : Handle} {r : Roll} (known : p.roll? h = some r) (noTask : p.inTask h = false)
    (noShipment : ∀ k ∈ p.supply.links, k.out.roll = some h → k.out.state ≠ .carrying) :
    p.deleteRoll h = deleted p h ∨ ∃ l, p.deleteRoll h = (deleted p h).outIdle l := by
  have unnamed : p.sched.queue.find? (·.roll == h) = none :=
    List.find?_eq_none.2 fun t mem => by simpa using List.any_eq_false.1 noTask t mem
  unfold Plant.deleteRoll
  rw [known]
  dsimp only
  rcases claimEnded_cases (p := (p.freeRoll h).clearPlaces h) noShipment r.claim (numOr0 r.num) with e | ⟨l, e⟩ <;> rw [e]
  · rw [show ((p.freeRoll h).clearPlaces h |>.dropHolds (·.roll == h)).sched.queue.find? (·.roll == h) = none from unnamed]
    exact .inl rfl
  · rw [show (((p.freeRoll h).clearPlaces h |>.dropHolds (·.roll == h)).outIdle l).sched.queue.find? (·.roll == h) = none
      from unnamed]
    exact .inr ⟨l, rfl⟩

section
variable {p : Plant} {h : Handle} (noTask : p.inTask h = false)
  (noShipment : ∀ k ∈ p.supply.links, k.out.roll = some h → k.out.state ≠ .carrying)

theorem deleteRoll_of_unknown (unknown : p.roll? h = none) : p.deleteRoll h = p := by
  unfold Plant.deleteRoll
  rw [unknown]

include noTask noShipment

/-- A field of the plant that neither the deletion nor an IDLE record changes. -/
theorem deleteRoll_field {α : Type} (field : Plant → α) (deletes : field (deleted p h) = field p)
    (idles : ∀ q l, field (Plant.outIdle q l) = field q) : field (p.deleteRoll h) = field p := by
  cases known : p.roll? h with
  | none => rw [deleteRoll_of_unknown known]
  | some r =>
    rcases deleteRoll_cases known noTask noShipment with e | ⟨l, e⟩ <;> rw [e]
    · exact deletes
    · rw [idles, deletes]

theorem deleteRoll_bus : (p.deleteRoll h).bus = p.bus :=
  deleteRoll_field noTask noShipment (·.bus) rfl fun _ _ => rfl
theorem deleteRoll_calls : (p.deleteRoll h).supply.calls = p.supply.calls :=
  deleteRoll_field noTask noShipment (·.supply.calls) rfl fun _ _ => rfl

theorem deleteRoll_roll? : (p.deleteRoll h).roll? h = none := by
  cases known : p.roll? h with
  | none => rw [deleteRoll_of_unknown known]; exact known
  | some r =>
    rcases deleteRoll_cases known noTask noShipment with e | ⟨l, e⟩ <;> rw [e] <;> exact freeRoll_roll? p h

end

/-- An entry of a changed table with the number it was changed at. -/
theorem mem_updateIf_self {α : Type} {num : α → Nat} {n : Nat} {f : α → α} {l : List α}
    {k : α} (mem : k ∈ updateIf (fun x => num x == n) f l) (at_n : num k = n) : ∃ x ∈ l, k = f x := by
  obtain ⟨x, hx, rfl⟩ := List.mem_map.1 mem
  dsimp only at at_n ⊢
  split at at_n
  · next c => exact ⟨x, hx, by rw [if_pos c]⟩
  · next c => exact absurd at_n (by simpa using c)

theorem outIdle_links {p : Plant} {n : Nat} {k : LinkRec} (mem : k ∈ (p.outIdle n).supply.links) (at_n : k.num = n) :
    k.out = Outbound.idle := by
  obtain ⟨x, _, rfl⟩ := mem_updateIf_self (num := LinkRec.num)
    (f := fun l => { l with out := Outbound.idle }) mem at_n
  rfl

/-- Settles O31: the record is deleted with no frame of its own, and the outbound record goes IDLE last. -/
theorem shipmentsEnd : Obligations.ShipmentsEnd := by
  intro s l h roll noTask noShipment
  have ends (p : Plant) : p.endShipment l = (p.deleteRoll h).outIdle l.num := by
    unfold Plant.endShipment
    rw [roll]
  refine ⟨fun f rest head shipment => ?_, fun n T found state landing due => ?_⟩
  · have shipment : (s.popped rest).plant.outboundFor f [.conveying, .inTransit] = some l := shipment
    rw [exec_landed head]
    refine ⟨_, next_settle_plant (q := ((s.popped rest).plant.deleteRoll h).outIdle l.num) ?_,
      deleteRoll_roll? (p := (s.popped rest).plant) noTask noShipment, fun k => outIdle_links,
      deleteRoll_bus (p := (s.popped rest).plant) noTask noShipment⟩
    unfold Plant.takeLanded
    rw [shipment]
    exact ends _
  · have num : l.num = n := by simpa using List.find?_some found
    have due : reached? s.plant.now l.out.landing = true := by rw [landing]; exact due
    refine ⟨_, next_settle_plant (q := ((s.plant.deleteRoll h).outIdle n).event
      (.transferUnconfirmed n l.out.callNo (s.plant.rollNo h))) ?_,
      deleteRoll_roll? noTask noShipment, fun k => outIdle_links,
      congrArg (BusPort.sendEvent · _) (deleteRoll_bus noTask noShipment)⟩
    unfold Plant.giverLandingEnd
    rw [found]
    refine (if_pos ⟨state, due⟩).trans ?_
    rw [ends, num, roll]
    rfl

/-- What the end of the caller's landing wait does before the call is dealt with. -/
def unlanded (p : Plant) (n : Nat) (l : LinkRec) (h : Handle) : Plant :=
  ((p.deleteRoll h).modLink n fun l => { l with inb := Inbound.idle }).event
    (.transferUnconfirmed n l.inb.callNo (p.rollNo h))

theorem callerLandingEnd_of_due {p : Plant} {n : Nat} {l : LinkRec} {h : Handle} (found : p.link? n = some l)
    (expecting : l.inb.expecting = true) (roll : l.inb.roll = some h) (due : reached? p.now l.inb.landing = true) :
    p.callerLandingEnd n = if l.inb.claimed = true then
      match (unlanded p n l h).callNumbered l.inb.callNo with
      | some c => if c.state = .inbound then (unlanded p n l h).failCall c.stand else unlanded p n l h
      | none => unlanded p n l h
    else unlanded p n l h := by
  unfold Plant.callerLandingEnd
  rw [found]
  refine (if_pos ⟨expecting, due⟩).trans ?_
  rw [roll]
  rfl

/-- Settles O32: what precedes the call is the same in every case; the call is FAILED if it is INBOUND. -/
theorem rollsThatDoNotLand : Obligations.RollsThatDoNotLand := by
  intro s n l h T found expecting roll landing due noTask noShipment
  have due : reached? s.plant.now l.inb.landing = true := by rw [landing]; exact due
  refine ⟨_, next_settle_plant (callerLandingEnd_of_due found expecting roll due), ?_⟩
  have bus : (unlanded s.plant n l h).bus =
      s.plant.bus.sendEvent (.transferUnconfirmed n l.inb.callNo (s.plant.rollNo h)) :=
    congrArg (BusPort.sendEvent · _) (deleteRoll_bus noTask noShipment)
  have calls : (unlanded s.plant n l h).supply.calls = s.plant.supply.calls := deleteRoll_calls noTask noShipment
  have rolls : (unlanded s.plant n l h).roll? h = none := deleteRoll_roll? noTask noShipment
  have links : ∀ k ∈ (unlanded s.plant n l h).supply.links, k.num = n → k.inb = Inbound.idle := fun k mem at_n => by
    obtain ⟨x, _, rfl⟩ := mem_updateIf_self (num := LinkRec.num)
      (f := fun l => { l with inb := Inbound.idle }) mem at_n
    rfl
  have now : (unlanded s.plant n l h).now = s.plant.clock.ms :=
    congrArg Clock.ms (Plant.deleteRoll_reaches (.refl _)).clock
  have meant : (unlanded s.plant n l h).callNumbered l.inb.callNo = s.plant.callNumbered l.inb.callNo := by
    unfold Plant.callNumbered
    rw [calls]
  rw [meant]
  by_cases claimed : l.inb.claimed = true
  · rw [if_pos claimed, if_pos claimed]
    cases s.plant.callNumbered l.inb.callNo with
    | none => exact ⟨rolls, bus, links, calls⟩
    | some c =>
      dsimp only
      by_cases inbound : c.state = .inbound
      · rw [if_pos inbound, if_pos inbound]
        refine ⟨rolls, bus, links, ?_⟩
        unfold Plant.failCall Plant.modCall
        rw [now, ← calls]
        rfl
      · rw [if_neg inbound, if_neg inbound]
        exact ⟨rolls, bus, links, calls⟩
  · rw [if_neg claimed, if_neg claimed]
    exact ⟨rolls, bus, links, calls⟩

end Sys2Proof.SupplyProofs
end

section
/-! The return of a cart to AUTO at a STAND stop (R85): a read that overwrites the arm's loaded input. -/
namespace Sys2Proof.SupplyProofs
open Sys2Proof Sys2Proof.Machine

/-! ### A node whose STAND stop's tag reader and arm A's loaded input share a point

R183 checks that a point is one of its module's, not that two devices have different points. The read of the tag is then
also the loaded input's latest reading, and shows no roll on an arm that showed one before. -/

/-- Stop 1 is the STAND stop of stand 1; its tag reader is on point 4 of module 1, arm A's loaded input. -/
def sharedStop : StopCfg := { num := 1, kind := .stand, sec := 1, modNo := 1, firstPoint := 4, extra := 1 }

def sharedStand : StandCfg :=
  { num := 1, standStop := 1, prepStop := 2, modNo := 1, callLead := 60, accelLead := 20, settleRevs := 1, minSpeed := 500,
    runOutMargin := 10, pathLen := 5000, knifeOffset := 200, theta := 0, actuatorDelay := 10000, pre := 0, post := 0,
    verifyLen := 1000, k0 := 6553600, rpmMax := 100, torqueMax := 50, trimLen := 100, pulseWidth := 50 }

def sharedImage : Image :=
  { Image.empty with
    cls := 1, stands := [sharedStand], stops := [sharedStop], modules := [{ address := 1, points := 8 }]
    sections := [{ modNo := 1, occPoint := 1, tagPoint := 2, drivePoint := 3 }] }

/-- The references of the stop, and of the stand to its module, pass R183 whatever their offset. -/
theorem sharedImage_accepted (o : Nat) : (imageRefStop sharedImage sharedStop o).all (·.1) = true ∧
    imageRefExtra sharedImage sharedStop = true ∧ imageModuleOk sharedImage sharedStand.modNo = true ∧
    6 ≤ imagePointCount sharedImage sharedStand.modNo := ⟨rfl, rfl, rfl, by decide⟩

/-- The cart in FAULT at the STAND stop, a transfer of arm A interrupted; it holds nothing. -/
def faultCart : Cart :=
  { num := 1, state := .fault, pos := some (.stop 1), load := none, loadFlag := false, leg := none, queued := none,
    held := [], task := none, startWait := none, startsFrom := none, transit := none, transfer := none, arm := some .a,
    lastFault := none, pending := none, noRecord := false, surveyReads := [] }

def standStop : Stop :=
  { num := 1, roll := none, expected := none, cart := some 1, claim := some 1, point := .ring, transfer := none,
    warning := false, pending := none }

/-- The stand verifies a splice onto arm A, whose roll has no record. -/
def verifying : Stand :=
  { Stand.reset 1 with
    runArm := some .a, phase := .verify, armA := { ArmRec.reset with state := .run, roll := .unrecorded } }

/-- The module's last reading: arm A loaded. -/
def loadedModule : ModuleRec :=
  { num := 1, missed := 0, lost := false, answered := true, inputs := [.nothing, .nothing, .nothing, .level true] }

/-- The node in RUN with the press running. -/
def sharedPoint : State :=
  { State.reset with plant := { Plant.reset with
      loader := { node := .run, surveyStart := 0, image := sharedImage }
      pressRun := true
      traffic := { sections := [], stops := [standStop], carts := [faultCart] }
      splice := { stands := [verifying], pressStop := false }
      modules := [loadedModule] } }

/-- The node with the read noted: point 4 no longer reads a level. -/
def sharedPointRead : State := { sharedPoint with plant := sharedPoint.plant.setInput 1 4 (.tag 1 false false) }

theorem sharedPoint_fires : sharedPoint.Fires (.stopTag 1) (.tag 1 false false) sharedPointRead :=
  ⟨rfl, 1, 4, loadedModule, rfl, rfl, rfl, rfl, rfl⟩

/-- Before the read arm A shows its roll; after it arm A shows none. -/
theorem sharedPoint_armLoaded :
    sharedPoint.plant.armLoaded 1 .a = true ∧ sharedPointRead.plant.armLoaded 1 .a = false := ⟨rfl, rfl⟩

/-- The return to AUTO takes the RUN arm's roll as lost in VERIFY, which sets the waste unit's latch (R139, R145, R167). -/
theorem sharedPoint_latches : ∀ t, exec (.stopTagRead 1 1 false false) sharedPoint = .next t → t.press.waste.latch = true := by
  intro t h
  cases h
  rfl

/-- Refutes O50: its clauses of R85 read the arm's loaded input before the tag read, the command after it. At the node above the
two differ, though `side` says that arm A and its input agree; the command then changes the press, which no plant `q` mends. -/
theorem not_cartsArriveAndDepart : ¬ Obligations.CartsArriveAndDepart := by
  intro h
  obtain ⟨_, _, _, back, _⟩ := h sharedPoint sharedPointRead 1 1 faultCart standStop rfl rfl
  obtain ⟨agrees, _⟩ := back false .stand sharedPoint_fires (.inl rfl) rfl (.inr rfl) rfl
  obtain ⟨q, run, _⟩ := agrees (.inr (.inr ⟨rfl, .inr (.inr ⟨1, .a, verifying.armA, ⟨rfl, rfl, rfl, rfl⟩,
    iff_of_true rfl (by decide)⟩)⟩)) rfl rfl
  exact Bool.false_ne_true (sharedPoint_latches _ run)

end Sys2Proof.SupplyProofs
end
